-- ==== Sys2Proof/Word.lean ====
section
/-! DEFINITION. Word types of the 8087: bytes, memory words, physical addresses and temporary reals
(spec/00_scope.md R6, R7, R10; spec/10_state.md R22, R23). -/

namespace Sys2Proof

/-- One byte of memory. -/
abbrev Byte := BitVec 8

/-- A 16-bit word: the status, control and tag words, a CPU register. -/
abbrev Word := BitVec 16

/-- A 20-bit physical address (20_memory.md R80). -/
abbrev Addr := BitVec 20

/-- The 80 bits of a stack register, temporary real layout (10_state.md R22, R23). -/
abbrev TReal := BitVec 80

end Sys2Proof
end

