-- ==== Sys2Proof/Config.lean ====
section
/-! DEFINITION. What an implementation fixes and what the spec leaves open: every constant here is a
free value. It has no body, so no proof can see which value it is; a statement about a run holds for
all of them. The constants of the first part are drawn: they take the value of State's counter
`draws` (log 7). Those of the second part are the named parameters of spec/92_eei_decisions.md. -/

namespace Sys2Proof

/-! ### Drawn values (`undefined(n)`, 00_scope.md R12; 93_implementation_defined.md) -/

/-- `undefined(80)` for the first register an instruction writes (U1, U2, U3; log 34, log 37). -/
opaque Config.freeReal : Nat → TReal
/-- `undefined(80)` for the second register an instruction writes (FPTAN's pushed X, U3; log 34). -/
opaque Config.freeReal2 : Nat → TReal
/-- The undefined tag of the first such register (44_transcendental.md R380; log 34). -/
opaque Config.freeTag : Nat → BitVec 2
/-- The undefined tag of the second such register (R380; log 34). -/
opaque Config.freeTag2 : Nat → BitVec 2
/-- The condition code `C3 C2 C1 C0` where it is undefined (10_state.md R33, U4, U5, U17, U18; log 19). -/
opaque Config.freeCode : Nat → BitVec 4
/-- Bit 6 of a stored status word (10_state.md R36, U9; log 15). -/
opaque Config.freeStatusBit : Nat → Bool
/-- Bits 15:13 and 6 of a control word that was loaded from memory, where they are undefined (10_state.md R47,
D12; log 16). -/
opaque Config.freeControlBits : Nat → BitVec 4
/-- PE of FSCALE after a response that loses bits (42_arithmetic.md R312, U16; log 29). -/
opaque Config.freeScalePrecision : Nat → Bool
/-- The significand of a masked underflow with reduced precision (40_numerics.md R203, U15; log 30). -/
opaque Config.freeSignificand : Nat → BitVec 64
/-- Whether that significand is inexact (R203, U15; log 30). -/
opaque Config.freeUnderflowPrecision : Nat → Bool
/-- Bytes 0 to 7 of a stored packed-decimal indefinite (40_numerics.md R179, U14; log 38). -/
opaque Config.freeBcd : Nat → BitVec 64
/-- Whether a byte is written, by its place among those that may be: an old one put back by an abort
(20_memory.md R106, U7; log 14), or one of the CU over a byte of the CPU (R96, U20; log 13). -/
opaque Config.freeWritten : Nat → Nat → Bool
/-- A byte of an operand that another agent wrote while it was accessed, by address (20_memory.md R96,
U20; log 13). -/
opaque Config.freeByte : Nat → Nat → Byte
/-- Whether such a byte in memory keeps what the other agent wrote, by address (R96, U20; log 13). -/
opaque Config.freeKeeps : Nat → Nat → Bool
/-- Overflow and precision of a result under the reserved `PC` = 01 (10_state.md R42, U10; log 31). -/
opaque Config.freeReservedPc : Nat → BitVec 2

/-! ### Parameters -/

/-- What FLD makes of a short- or long-real denormal (40_numerics.md R226, D26). -/
inductive FldDenormal where
  /-- the exact value with the source format's smallest exponent and integer bit 0 -/
  | unnormal
  /-- the exact value, normalized -/
  | normalized
  /-- biased exponent 0 and the source's fraction at the top of the significand -/
  | denormal
deriving DecidableEq, Repr, Inhabited

/-- `fld_denormal` (R226, D26; log 25), by format (32 or 64 bits) and source bits. -/
opaque Config.fldDenormal : Nat → BitVec 64 → FldDenormal

/-- The operations whose result on some operands is an open parameter. -/
inductive OpenOp where
  | add | sub | mul | div | sqrt | scale | prem | rndint | extractExponent | extractSignificand
deriving DecidableEq, Repr, Inhabited

/-- An open result: the exceptions detected (bits P U O Z D I, as in the status word) and the value. -/
structure OpenResult where
  exc : BitVec 6
  value : TReal
deriving DecidableEq, Repr, Inhabited

/-- `unnormal_arith`, `pseudo_special`, `inf_scale_extract` (40_numerics.md R227, R229, R186; D27, D28,
D17; logs 23, 24, 26): the result of an operation on two operands under a control word. -/
opaque Config.openArith : OpenOp → TReal → TReal → Word → OpenResult
/-- The order of two operands of which one is in the extended domain (R227, R229; logs 23, 24):
00 greater, 01 less, 10 equal, 11 unordered. -/
opaque Config.openCompare : TReal → TReal → Word → BitVec 2
/-- A comparison signals D for a pattern of `pseudo_special` (R229; log 24). -/
opaque Config.compareSignalsD : TReal → TReal → Word → Bool

/-- The destinations of a converting store. -/
inductive OpenStore where
  | short | long | int16 | int32 | int64 | bcd
deriving DecidableEq, Repr, Inhabited

/-- A converting store of an extended-domain register (R227, R228, R229; logs 23, 24). -/
opaque Config.openStore : OpenStore → TReal → Word → OpenResult
/-- FXAM's `C3 C2 C0` for the patterns with exponent 7FFFH and integer bit 0 (R229; log 24). -/
opaque Config.pseudoClass : TReal → BitVec 3
/-- `overflow_directed` (R202, D16; log 22): under `RC` up or down, by rounding control and sign of
the result: is the value delivered for a masked overflow the infinity (else the largest finite)? -/
opaque Config.overflowToInfinity : BitVec 2 → Bool → Bool
/-- `fprem_partial` (42_arithmetic.md R315, D18; log 32): how many times the modulus is taken off. -/
opaque Config.fpremQuotient : TReal → TReal → Nat
/-- What a numeric instruction reads from a register whose tag disagrees with its content
(10_state.md R46, U11; log 36). -/
opaque Config.mistagged : TReal → BitVec 2 → TReal

/-- `f_ptan`, the Y of the ratio (44_transcendental.md R382, R383, D20; log 33), by operand and `RC`. -/
opaque Config.fPtanY : TReal → BitVec 2 → TReal
/-- `f_ptan`, the X of the ratio (R382, R383; log 33). -/
opaque Config.fPtanX : TReal → BitVec 2 → TReal
/-- `f_patan` of Y and X (R382, R384; log 33). -/
opaque Config.fPatan : TReal → TReal → BitVec 2 → TReal
/-- `f_2xm1` (R382, R385; log 33). -/
opaque Config.f2xm1 : TReal → BitVec 2 → TReal
/-- `f_yl2x` of Y and X (R382, R386; log 33). -/
opaque Config.fYl2x : TReal → TReal → BitVec 2 → TReal
/-- `f_yl2xp1` of Y and X (R382, R387; log 33). -/
opaque Config.fYl2xp1 : TReal → TReal → BitVec 2 → TReal
/-- Whether a result of FYL2X or FYL2XP1 leaves the range, where the bounds of its logarithm do not
decide it (R386, U3; log 35). -/
opaque Config.logLeavesRange : TReal → TReal → Bool
/-- Whether FYL2X or FYL2XP1 signals P when its result leaves the range (R386; log 35). -/
opaque Config.logRangePrecision : TReal → TReal → Bool

end Sys2Proof
end

