-- ==== Sys2Proof/Syntax.lean ====
section
/-! DEFINITION. The instructions of the 8087, one constructor per instruction form of
spec/opcode_table.json (30_encoding.md R130 to R133, R137: 111 forms, whose memory forms have one
table row per `mod` value), the CPU's WAIT under its name FWAIT, and the reserved rows. -/

namespace Sys2Proof

/-- The base or index registers that the `rm` field of a memory operand selects
(30_encoding.md R124, the rows of its table in order; `bp` is the row `rm` = 110 with a displacement). -/
inductive Base where
  | bxSi | bxDi | bpSi | bpDi | si | di | bp | bx
deriving DecidableEq, Repr, Inhabited

/-- A memory operand as coded: `mod`, `rm` and the displacement (30_encoding.md R122, R124). -/
inductive MemOp where
  /-- `mod` = 00, `rm` not 110: no displacement. -/
  | noDisp (b : Base)
  /-- `mod` = 00, `rm` = 110: direct, a 16-bit offset. -/
  | direct (off : BitVec 16)
  /-- `mod` = 01: an 8-bit displacement, sign-extended. -/
  | disp8 (b : Base) (d : BitVec 8)
  /-- `mod` = 10: a 16-bit displacement. -/
  | disp16 (b : Base) (d : BitVec 16)
deriving DecidableEq, Repr, Inhabited

/-- The segment a segment-override byte names (30_encoding.md R124). -/
inductive SegReg where
  | es | cs | ss | ds
deriving DecidableEq, Repr, Inhabited

/-- The instructions. A register number is the 3-bit distance from the stack top (30_encoding.md R128). -/
inductive Instr where
  -- Data transfer (41_data_transfer.md)
  /-- FLD: load short real (R261). -/
  | fldM32 (m : MemOp)
  /-- FLD: load long real (R261). -/
  | fldM64 (m : MemOp)
  /-- FLD: load temporary real (R261). -/
  | fldM80 (m : MemOp)
  /-- FLD: load `ST(i)` (R261). -/
  | fldSti (i : BitVec 3)
  /-- FST: store short real (R262). -/
  | fstM32 (m : MemOp)
  /-- FST: store long real (R262). -/
  | fstM64 (m : MemOp)
  /-- FST: store into `ST(i)` (R262). -/
  | fstSti (i : BitVec 3)
  /-- FSTP: store short real and pop (R263). -/
  | fstpM32 (m : MemOp)
  /-- FSTP: store long real and pop (R263). -/
  | fstpM64 (m : MemOp)
  /-- FSTP: store temporary real and pop (R263). -/
  | fstpM80 (m : MemOp)
  /-- FSTP: store into `ST(i)` and pop (R263). -/
  | fstpSti (i : BitVec 3)
  /-- FXCH: exchange `ST` and `ST(i)` (R264). -/
  | fxch (i : BitVec 3)
  /-- FILD: load word integer (R265). -/
  | fildM16 (m : MemOp)
  /-- FILD: load short integer (R265). -/
  | fildM32 (m : MemOp)
  /-- FILD: load long integer (R265). -/
  | fildM64 (m : MemOp)
  /-- FIST: store word integer (R266). -/
  | fistM16 (m : MemOp)
  /-- FIST: store short integer (R266). -/
  | fistM32 (m : MemOp)
  /-- FISTP: store word integer and pop (R267). -/
  | fistpM16 (m : MemOp)
  /-- FISTP: store short integer and pop (R267). -/
  | fistpM32 (m : MemOp)
  /-- FISTP: store long integer and pop (R267). -/
  | fistpM64 (m : MemOp)
  /-- FBLD: load packed decimal (R268). -/
  | fbld (m : MemOp)
  /-- FBSTP: store packed decimal and pop (R269). -/
  | fbstp (m : MemOp)
  -- Arithmetic (42_arithmetic.md)
  /-- FADD: add, short real source (R292). -/
  | faddM32 (m : MemOp)
  /-- FADD: add, long real source (R292). -/
  | faddM64 (m : MemOp)
  /-- FADD: add, `ST,ST(i)` (R292). -/
  | faddSt (i : BitVec 3)
  /-- FADD: add, `ST(i),ST` (R292). -/
  | faddSti (i : BitVec 3)
  /-- FADDP: add and pop, `ST(i),ST` (R293). -/
  | faddp (i : BitVec 3)
  /-- FIADD: add, word integer source (R294). -/
  | fiaddM16 (m : MemOp)
  /-- FIADD: add, short integer source (R294). -/
  | fiaddM32 (m : MemOp)
  /-- FSUB: subtract, short real source (R295). -/
  | fsubM32 (m : MemOp)
  /-- FSUB: subtract, long real source (R295). -/
  | fsubM64 (m : MemOp)
  /-- FSUB: subtract, `ST,ST(i)` (R295). -/
  | fsubSt (i : BitVec 3)
  /-- FSUB: subtract, `ST(i),ST` (R295). -/
  | fsubSti (i : BitVec 3)
  /-- FSUBP: subtract and pop, `ST(i),ST` (R296). -/
  | fsubp (i : BitVec 3)
  /-- FISUB: subtract, word integer source (R297). -/
  | fisubM16 (m : MemOp)
  /-- FISUB: subtract, short integer source (R297). -/
  | fisubM32 (m : MemOp)
  /-- FSUBR: subtract reversed, short real source (R298). -/
  | fsubrM32 (m : MemOp)
  /-- FSUBR: subtract reversed, long real source (R298). -/
  | fsubrM64 (m : MemOp)
  /-- FSUBR: subtract reversed, `ST,ST(i)` (R298). -/
  | fsubrSt (i : BitVec 3)
  /-- FSUBR: subtract reversed, `ST(i),ST` (R298). -/
  | fsubrSti (i : BitVec 3)
  /-- FSUBRP: subtract reversed and pop, `ST(i),ST` (R299). -/
  | fsubrp (i : BitVec 3)
  /-- FISUBR: subtract reversed, word integer source (R300). -/
  | fisubrM16 (m : MemOp)
  /-- FISUBR: subtract reversed, short integer source (R300). -/
  | fisubrM32 (m : MemOp)
  /-- FMUL: multiply, short real source (R301). -/
  | fmulM32 (m : MemOp)
  /-- FMUL: multiply, long real source (R301). -/
  | fmulM64 (m : MemOp)
  /-- FMUL: multiply, `ST,ST(i)` (R301). -/
  | fmulSt (i : BitVec 3)
  /-- FMUL: multiply, `ST(i),ST` (R301). -/
  | fmulSti (i : BitVec 3)
  /-- FMULP: multiply and pop, `ST(i),ST` (R302). -/
  | fmulp (i : BitVec 3)
  /-- FIMUL: multiply, word integer source (R303). -/
  | fimulM16 (m : MemOp)
  /-- FIMUL: multiply, short integer source (R303). -/
  | fimulM32 (m : MemOp)
  /-- FDIV: divide, short real source (R304). -/
  | fdivM32 (m : MemOp)
  /-- FDIV: divide, long real source (R304). -/
  | fdivM64 (m : MemOp)
  /-- FDIV: divide, `ST,ST(i)` (R304). -/
  | fdivSt (i : BitVec 3)
  /-- FDIV: divide, `ST(i),ST` (R304). -/
  | fdivSti (i : BitVec 3)
  /-- FDIVP: divide and pop, `ST(i),ST` (R305). -/
  | fdivp (i : BitVec 3)
  /-- FIDIV: divide, word integer source (R306). -/
  | fidivM16 (m : MemOp)
  /-- FIDIV: divide, short integer source (R306). -/
  | fidivM32 (m : MemOp)
  /-- FDIVR: divide reversed, short real source (R307). -/
  | fdivrM32 (m : MemOp)
  /-- FDIVR: divide reversed, long real source (R307). -/
  | fdivrM64 (m : MemOp)
  /-- FDIVR: divide reversed, `ST,ST(i)` (R307). -/
  | fdivrSt (i : BitVec 3)
  /-- FDIVR: divide reversed, `ST(i),ST` (R307). -/
  | fdivrSti (i : BitVec 3)
  /-- FDIVRP: divide reversed and pop, `ST(i),ST` (R308). -/
  | fdivrp (i : BitVec 3)
  /-- FIDIVR: divide reversed, word integer source (R309). -/
  | fidivrM16 (m : MemOp)
  /-- FIDIVR: divide reversed, short integer source (R309). -/
  | fidivrM32 (m : MemOp)
  /-- FSQRT: square root (R311). -/
  | fsqrt
  /-- FSCALE: scale (R312). -/
  | fscale
  /-- FPREM: partial remainder (R315). -/
  | fprem
  /-- FRNDINT: round to integer (R316). -/
  | frndint
  /-- FXTRACT: extract exponent and significand (R317). -/
  | fxtract
  /-- FABS: absolute value (R318). -/
  | fabs
  /-- FCHS: change sign (R319). -/
  | fchs
  -- Comparison (43_comparison.md)
  /-- FCOM: compare with a short real (R351). -/
  | fcomM32 (m : MemOp)
  /-- FCOM: compare with a long real (R351). -/
  | fcomM64 (m : MemOp)
  /-- FCOM: compare with `ST(i)` (R351). -/
  | fcomSti (i : BitVec 3)
  /-- FCOMP: compare with a short real and pop (R352). -/
  | fcompM32 (m : MemOp)
  /-- FCOMP: compare with a long real and pop (R352). -/
  | fcompM64 (m : MemOp)
  /-- FCOMP: compare with `ST(i)` and pop (R352). -/
  | fcompSti (i : BitVec 3)
  /-- FCOMPP: compare with `ST(1)` and pop twice (R353). -/
  | fcompp
  /-- FICOM: compare with a word integer (R354). -/
  | ficomM16 (m : MemOp)
  /-- FICOM: compare with a short integer (R354). -/
  | ficomM32 (m : MemOp)
  /-- FICOMP: compare with a word integer and pop (R355). -/
  | ficompM16 (m : MemOp)
  /-- FICOMP: compare with a short integer and pop (R355). -/
  | ficompM32 (m : MemOp)
  /-- FTST: test against zero (R357). -/
  | ftst
  /-- FXAM: examine (R358). -/
  | fxam
  -- Transcendental (44_transcendental.md)
  /-- FPTAN: partial tangent (R383). -/
  | fptan
  /-- FPATAN: partial arctangent (R384). -/
  | fpatan
  /-- F2XM1: 2^X - 1 (R385). -/
  | f2xm1
  /-- FYL2X: Y log2 X (R386). -/
  | fyl2x
  /-- FYL2XP1: Y log2 (X+1) (R387). -/
  | fyl2xp1
  -- Constant (45_constant.md)
  /-- FLDZ: load +0.0 (R401). -/
  | fldz
  /-- FLD1: load +1.0 (R402). -/
  | fld1
  /-- FLDPI: load pi (R403). -/
  | fldpi
  /-- FLDL2T: load log2 10 (R404). -/
  | fldl2t
  /-- FLDL2E: load log2 e (R405). -/
  | fldl2e
  /-- FLDLG2: load log10 2 (R406). -/
  | fldlg2
  /-- FLDLN2: load loge 2 (R407). -/
  | fldln2
  -- Processor control (46_processor_control.md)
  /-- FINIT: initialize processor (R420). -/
  | finit
  /-- FDISI: disable interrupts (R421). -/
  | fdisi
  /-- FENI: enable interrupts (R422). -/
  | feni
  /-- FLDCW: load control word (R423). -/
  | fldcw (m : MemOp)
  /-- FSTCW: store control word (R424). -/
  | fstcw (m : MemOp)
  /-- FSTSW: store status word (R427). -/
  | fstsw (m : MemOp)
  /-- FCLEX: clear exceptions (R428). -/
  | fclex
  /-- FSTENV: store environment (R430). -/
  | fstenv (m : MemOp)
  /-- FLDENV: load environment (R432). -/
  | fldenv (m : MemOp)
  /-- FSAVE: save state (R433). -/
  | fsave (m : MemOp)
  /-- FRSTOR: restore state (R434). -/
  | frstor (m : MemOp)
  /-- FINCSTP: increment stack pointer (R435). -/
  | fincstp
  /-- FDECSTP: decrement stack pointer (R436). -/
  | fdecstp
  /-- FFREE: free register (R437). -/
  | ffree (i : BitVec 3)
  /-- FNOP: no operation (R439). -/
  | fnop
  -- The CPU's WAIT and the reserved rows (30_encoding.md R135, R147, R148)
  /-- FWAIT: the CPU's WAIT instruction (R441). -/
  | fwait
  /-- A reserved opcode with a memory operand (R148). -/
  | reservedM (opA opB : BitVec 3) (m : MemOp)
  /-- A reserved opcode of the register format (R132, R133, R147). -/
  | reservedR (opA opB i : BitVec 3)
deriving DecidableEq, Repr, Inhabited

end Sys2Proof
end

