-- ==== Sys2Proof/WellFormed.lean ====
section
/-! DEFINITION. Which terms of `Instr` stand for an encoding: a memory operand without displacement
has no `bp` row (30_encoding.md R124), and a reserved term names an opcode that
30_encoding.md R130 to R133 leave unassigned (R147, R148). -/

namespace Sys2Proof

/-- `mod` = 00 with `rm` = 110 is the direct mode, so BP alone has no encoding (30_encoding.md R124). -/
def MemOp.wf : MemOp → Bool
  | .noDisp b => b ≠ .bp
  | .direct _ | .disp8 _ _ | .disp16 _ _ => true

/-- The reserved cells of the memory format: D9 /1, DB /1, DB /4, DB /6, DD /1, DD /5, DF /1 (R148). -/
def reservedMem (opA opB : BitVec 3) : Bool :=
  (opA.toNat, opB.toNat) ∈ [(1, 1), (3, 1), (3, 4), (3, 6), (5, 1), (5, 5), (7, 1)]

/-- The reserved values of the register format, by their second byte's low six bits (R132, R133). -/
def reservedReg (opA opB i : BitVec 3) : Bool :=
  let b1 := 0xC0 + opB.toNat * 8 + i.toNat
  match opA.toNat with
  | 0 => false
  | 1 => (0xD1 ≤ b1 && b1 ≤ 0xDF) || b1 ∈ [0xE2, 0xE3, 0xE6, 0xE7, 0xEF, 0xF5, 0xFB, 0xFE, 0xFF]
  | 2 => true
  | 3 => b1 ≤ 0xDF || 0xE4 ≤ b1
  | 4 => 0xD0 ≤ b1 && b1 ≤ 0xDF
  | 5 => (0xC8 ≤ b1 && b1 ≤ 0xCF) || 0xE0 ≤ b1
  | 6 => (0xD0 ≤ b1 && b1 ≤ 0xD8) || (0xDA ≤ b1 && b1 ≤ 0xDF)
  | _ => true

/-- The memory operand of an instruction, if it has one. -/
def Instr.memOp? : Instr → Option MemOp
  | .fldM32 m | .fldM64 m | .fldM80 m | .fstM32 m | .fstM64 m | .fstpM32 m
  | .fstpM64 m | .fstpM80 m | .fildM16 m | .fildM32 m | .fildM64 m | .fistM16 m
  | .fistM32 m | .fistpM16 m | .fistpM32 m | .fistpM64 m | .fbld m | .fbstp m
  | .faddM32 m | .faddM64 m | .fiaddM16 m | .fiaddM32 m | .fsubM32 m | .fsubM64 m
  | .fisubM16 m | .fisubM32 m | .fsubrM32 m | .fsubrM64 m | .fisubrM16 m | .fisubrM32 m
  | .fmulM32 m | .fmulM64 m | .fimulM16 m | .fimulM32 m | .fdivM32 m | .fdivM64 m
  | .fidivM16 m | .fidivM32 m | .fdivrM32 m | .fdivrM64 m | .fidivrM16 m | .fidivrM32 m
  | .fcomM32 m | .fcomM64 m | .fcompM32 m | .fcompM64 m | .ficomM16 m | .ficomM32 m
  | .ficompM16 m | .ficompM32 m | .fldcw m | .fstcw m | .fstsw m | .fstenv m
  | .fldenv m | .fsave m | .frstor m
  | .reservedM _ _ m => some m
  | _ => none

/-- The term stands for an encoding. -/
def Instr.wf (i : Instr) : Bool :=
  (match i.memOp? with | some m => m.wf | none => true) &&
  (match i with
   | .reservedM a b _ => reservedMem a b
   | .reservedR a b k => reservedReg a b k
   | _ => true)

end Sys2Proof
end

