-- ==== Sys2Proof/Decode.lean ====
section
/-! DEFINITION. The decoder, total on any bytes, and the encoder (spec/30_encoding.md R120 to R148).
The decoder reads the bytes the CPU hands over for one instruction; what it cannot read it rejects by name. -/

namespace Sys2Proof

/-- Why bytes are no instruction of this machine. -/
inductive DecodeError where
  /-- the bytes end inside the instruction -/
  | truncated
  /-- the first byte is neither an escape (D8H to DFH, R120) nor WAIT (9BH, R135) -/
  | notNdp (b0 : Byte)
deriving DecidableEq, Repr

/-- The `rm` field of a base (R124). -/
def Base.code : Base → BitVec 3
  | .bxSi => 0 | .bxDi => 1 | .bpSi => 2 | .bpDi => 3 | .si => 4 | .di => 5 | .bp => 6 | .bx => 7

/-- The base an `rm` field selects (R124). -/
def Base.ofCode (rm : BitVec 3) : Base :=
  match rm.toNat with
  | 0 => .bxSi | 1 => .bxDi | 2 => .bpSi | 3 => .bpDi | 4 => .si | 5 => .di | 6 => .bp | _ => .bx

/-- Memory format: the instruction of a cell (R130). -/
def decodeMemForm (opA opB : BitVec 3) (m : MemOp) : Instr :=
  match opA.toNat, opB.toNat with
  | 0, 0 => .faddM32 m | 0, 1 => .fmulM32 m | 0, 2 => .fcomM32 m | 0, 3 => .fcompM32 m | 0, 4 => .fsubM32 m | 0, 5 => .fsubrM32 m | 0, 6 => .fdivM32 m | 0, 7 => .fdivrM32 m
  | 1, 0 => .fldM32 m | 1, 2 => .fstM32 m | 1, 3 => .fstpM32 m | 1, 4 => .fldenv m | 1, 5 => .fldcw m | 1, 6 => .fstenv m | 1, 7 => .fstcw m
  | 2, 0 => .fiaddM32 m | 2, 1 => .fimulM32 m | 2, 2 => .ficomM32 m | 2, 3 => .ficompM32 m | 2, 4 => .fisubM32 m | 2, 5 => .fisubrM32 m | 2, 6 => .fidivM32 m | 2, 7 => .fidivrM32 m
  | 3, 0 => .fildM32 m | 3, 2 => .fistM32 m | 3, 3 => .fistpM32 m | 3, 5 => .fldM80 m | 3, 7 => .fstpM80 m
  | 4, 0 => .faddM64 m | 4, 1 => .fmulM64 m | 4, 2 => .fcomM64 m | 4, 3 => .fcompM64 m | 4, 4 => .fsubM64 m | 4, 5 => .fsubrM64 m | 4, 6 => .fdivM64 m | 4, 7 => .fdivrM64 m
  | 5, 0 => .fldM64 m | 5, 2 => .fstM64 m | 5, 3 => .fstpM64 m | 5, 4 => .frstor m | 5, 6 => .fsave m | 5, 7 => .fstsw m
  | 6, 0 => .fiaddM16 m | 6, 1 => .fimulM16 m | 6, 2 => .ficomM16 m | 6, 3 => .ficompM16 m | 6, 4 => .fisubM16 m | 6, 5 => .fisubrM16 m | 6, 6 => .fidivM16 m | 6, 7 => .fidivrM16 m
  | 7, 0 => .fildM16 m | 7, 2 => .fistM16 m | 7, 3 => .fistpM16 m | 7, 4 => .fbld m | 7, 5 => .fildM64 m | 7, 6 => .fbstp m | 7, 7 => .fistpM64 m
  | _, _ => .reservedM opA opB m

/-- Register format, the single encodings of first byte D9 (R132). -/
def decodeD9 (opB i : BitVec 3) : Instr :=
  match opB.toNat, i.toNat with
  | 2, 0 => .fnop
  | 4, 0 => .fchs | 4, 1 => .fabs | 4, 4 => .ftst | 4, 5 => .fxam
  | 5, 0 => .fld1 | 5, 1 => .fldl2t | 5, 2 => .fldl2e | 5, 3 => .fldpi | 5, 4 => .fldlg2 | 5, 5 => .fldln2 | 5, 6 => .fldz
  | 6, 0 => .f2xm1 | 6, 1 => .fyl2x | 6, 2 => .fptan | 6, 3 => .fpatan | 6, 4 => .fxtract | 6, 6 => .fdecstp | 6, 7 => .fincstp
  | 7, 0 => .fprem | 7, 1 => .fyl2xp1 | 7, 2 => .fsqrt | 7, 4 => .frndint | 7, 5 => .fscale
  | _, _ => .reservedR 1 opB i

/-- Register format (R131, R132, R133). -/
def decodeRegForm (opA opB i : BitVec 3) : Instr :=
  match opA.toNat, opB.toNat with
  | 0, 0 => .faddSt i | 0, 1 => .fmulSt i | 0, 2 => .fcomSti i | 0, 3 => .fcompSti i | 0, 4 => .fsubSt i | 0, 5 => .fsubrSt i | 0, 6 => .fdivSt i | 0, 7 => .fdivrSt i
  | 1, 0 => .fldSti i | 1, 1 => .fxch i | 1, _ => decodeD9 opB i
  | 4, 0 => .faddSti i | 4, 1 => .fmulSti i | 4, 4 => .fsubrSti i | 4, 5 => .fsubSti i | 4, 6 => .fdivrSti i | 4, 7 => .fdivSti i
  | 5, 0 => .ffree i | 5, 2 => .fstSti i | 5, 3 => .fstpSti i
  | 6, 0 => .faddp i | 6, 1 => .fmulp i | 6, 4 => .fsubrp i | 6, 5 => .fsubp i | 6, 6 => .fdivrp i | 6, 7 => .fdivp i
  | 3, 4 => match i.toNat with
    | 0 => .feni | 1 => .fdisi | 2 => .fclex | 3 => .finit | _ => .reservedR opA opB i
  | 6, 3 => if i = 1 then .fcompp else .reservedR opA opB i
  | _, _ => .reservedR opA opB i

/-- The memory operand after the addressing byte, with the displacement bytes it takes (R124, R127). -/
def decodeMemOp (mod : BitVec 2) (rm : BitVec 3) (bs : List Byte) : Option (MemOp × List Byte) :=
  if mod = 0 then
    if rm = 6 then
      match bs with
      | lo :: hi :: rest => some (.direct (hi ++ lo), rest)
      | _ => none
    else some (.noDisp (Base.ofCode rm), bs)
  else if mod = 1 then
    match bs with
    | d :: rest => some (.disp8 (Base.ofCode rm) d, rest)
    | _ => none
  else
    match bs with
    | lo :: hi :: rest => some (.disp16 (Base.ofCode rm) (hi ++ lo), rest)
    | _ => none

/-- An escape instruction after its first byte (R122, R129). -/
def decodeEsc (opA : BitVec 3) (b1 : Byte) (bs : List Byte) : Except DecodeError (Instr × List Byte) :=
  let mod := b1.extractLsb' 6 2
  let opB := b1.extractLsb' 3 3
  let rm := b1.extractLsb' 0 3
  if mod = 3 then .ok (decodeRegForm opA opB rm, bs)
  else match decodeMemOp mod rm bs with
    | some (m, rest) => .ok (decodeMemForm opA opB m, rest)
    | none => .error .truncated

/-- Decode one instruction at the head of a list of bytes; the bytes left over come with it
(R120, R123, R127, R135). -/
def decode (bs : List Byte) : Except DecodeError (Instr × List Byte) :=
  match bs with
  | [] => .error .truncated
  | b0 :: rest =>
    if b0 = 0x9B then .ok (.fwait, rest)
    else if b0.extractLsb' 3 5 = 0b11011 then
      match rest with
      | [] => .error .truncated
      | b1 :: rest' => decodeEsc (b0.extractLsb' 0 3) b1 rest'
    else .error (.notNdp b0)

/-- The segment that a segment-override byte names (R124). -/
def segOfPrefix (b : Byte) : Option SegReg :=
  if b = 0x26 then some .es else if b = 0x2E then some .cs
  else if b = 0x36 then some .ss else if b = 0x3E then some .ds else none

/-- The segment-override byte of a segment (R124). -/
def prefixByte : SegReg → Byte
  | .es => 0x26 | .cs => 0x2E | .ss => 0x36 | .ds => 0x3E

/-- Decode one instruction with its segment-override byte, if there is one in front of the escape byte
(R124, R127): the segment, the instruction, and the bytes left over. -/
def decodeFull (bs : List Byte) : Except DecodeError (Option SegReg × Instr × List Byte) :=
  match bs with
  | [] => .error .truncated
  | b :: rest =>
    match segOfPrefix b with
    | none =>
      match decode bs with
      | .ok (i, left) => .ok (none, i, left)
      | .error r => .error r
    | some g =>
      match decode rest with
      | .ok (i, left) => if i = .fwait then .error (.notNdp 0x9B) else .ok (some g, i, left)
      | .error r => .error r

/-- The 11-bit NDP opcode of an instruction's first two bytes (R123). -/
def opcode11 (bs : List Byte) : BitVec 11 :=
  match bs with
  | b0 :: b1 :: _ => b0.extractLsb' 0 3 ++ b1
  | _ => 0

/-- The addressing byte and the displacement bytes of a memory operand (R122, R124). -/
def encodeMemOp (opB : BitVec 3) : MemOp → List Byte
  | .noDisp b => [(0 : BitVec 2) ++ opB ++ b.code]
  | .direct off => [(0 : BitVec 2) ++ opB ++ (6 : BitVec 3), off.extractLsb' 0 8, off.extractLsb' 8 8]
  | .disp8 b d => [(1 : BitVec 2) ++ opB ++ b.code, d]
  | .disp16 b d => [(2 : BitVec 2) ++ opB ++ b.code, d.extractLsb' 0 8, d.extractLsb' 8 8]

/-- A memory-format instruction (R122, format M). -/
def encM (opA opB : BitVec 3) (m : MemOp) : List Byte :=
  ((0b11011 : BitVec 5) ++ opA) :: encodeMemOp opB m

/-- A register-format instruction (R122, format R). -/
def encR (opA opB i : BitVec 3) : List Byte :=
  [(0b11011 : BitVec 5) ++ opA, (3 : BitVec 2) ++ opB ++ i]

/-- The bytes of an instruction, without a WAIT, NOP or segment-override byte in front (R126, R130 to R133). -/
def encode : Instr → List Byte
  | .fldM32 m => encM 1 0 m
  | .fldM64 m => encM 5 0 m
  | .fldM80 m => encM 3 5 m
  | .fldSti i => encR 1 0 i
  | .fstM32 m => encM 1 2 m
  | .fstM64 m => encM 5 2 m
  | .fstSti i => encR 5 2 i
  | .fstpM32 m => encM 1 3 m
  | .fstpM64 m => encM 5 3 m
  | .fstpM80 m => encM 3 7 m
  | .fstpSti i => encR 5 3 i
  | .fxch i => encR 1 1 i
  | .fildM16 m => encM 7 0 m
  | .fildM32 m => encM 3 0 m
  | .fildM64 m => encM 7 5 m
  | .fistM16 m => encM 7 2 m
  | .fistM32 m => encM 3 2 m
  | .fistpM16 m => encM 7 3 m
  | .fistpM32 m => encM 3 3 m
  | .fistpM64 m => encM 7 7 m
  | .fbld m => encM 7 4 m
  | .fbstp m => encM 7 6 m
  | .faddM32 m => encM 0 0 m
  | .faddM64 m => encM 4 0 m
  | .faddSt i => encR 0 0 i
  | .faddSti i => encR 4 0 i
  | .faddp i => encR 6 0 i
  | .fiaddM16 m => encM 6 0 m
  | .fiaddM32 m => encM 2 0 m
  | .fsubM32 m => encM 0 4 m
  | .fsubM64 m => encM 4 4 m
  | .fsubSt i => encR 0 4 i
  | .fsubSti i => encR 4 5 i
  | .fsubp i => encR 6 5 i
  | .fisubM16 m => encM 6 4 m
  | .fisubM32 m => encM 2 4 m
  | .fsubrM32 m => encM 0 5 m
  | .fsubrM64 m => encM 4 5 m
  | .fsubrSt i => encR 0 5 i
  | .fsubrSti i => encR 4 4 i
  | .fsubrp i => encR 6 4 i
  | .fisubrM16 m => encM 6 5 m
  | .fisubrM32 m => encM 2 5 m
  | .fmulM32 m => encM 0 1 m
  | .fmulM64 m => encM 4 1 m
  | .fmulSt i => encR 0 1 i
  | .fmulSti i => encR 4 1 i
  | .fmulp i => encR 6 1 i
  | .fimulM16 m => encM 6 1 m
  | .fimulM32 m => encM 2 1 m
  | .fdivM32 m => encM 0 6 m
  | .fdivM64 m => encM 4 6 m
  | .fdivSt i => encR 0 6 i
  | .fdivSti i => encR 4 7 i
  | .fdivp i => encR 6 7 i
  | .fidivM16 m => encM 6 6 m
  | .fidivM32 m => encM 2 6 m
  | .fdivrM32 m => encM 0 7 m
  | .fdivrM64 m => encM 4 7 m
  | .fdivrSt i => encR 0 7 i
  | .fdivrSti i => encR 4 6 i
  | .fdivrp i => encR 6 6 i
  | .fidivrM16 m => encM 6 7 m
  | .fidivrM32 m => encM 2 7 m
  | .fsqrt => encR 1 7 2
  | .fscale => encR 1 7 5
  | .fprem => encR 1 7 0
  | .frndint => encR 1 7 4
  | .fxtract => encR 1 6 4
  | .fabs => encR 1 4 1
  | .fchs => encR 1 4 0
  | .fcomM32 m => encM 0 2 m
  | .fcomM64 m => encM 4 2 m
  | .fcomSti i => encR 0 2 i
  | .fcompM32 m => encM 0 3 m
  | .fcompM64 m => encM 4 3 m
  | .fcompSti i => encR 0 3 i
  | .fcompp => encR 6 3 1
  | .ficomM16 m => encM 6 2 m
  | .ficomM32 m => encM 2 2 m
  | .ficompM16 m => encM 6 3 m
  | .ficompM32 m => encM 2 3 m
  | .ftst => encR 1 4 4
  | .fxam => encR 1 4 5
  | .fptan => encR 1 6 2
  | .fpatan => encR 1 6 3
  | .f2xm1 => encR 1 6 0
  | .fyl2x => encR 1 6 1
  | .fyl2xp1 => encR 1 7 1
  | .fldz => encR 1 5 6
  | .fld1 => encR 1 5 0
  | .fldpi => encR 1 5 3
  | .fldl2t => encR 1 5 1
  | .fldl2e => encR 1 5 2
  | .fldlg2 => encR 1 5 4
  | .fldln2 => encR 1 5 5
  | .finit => encR 3 4 3
  | .fdisi => encR 3 4 1
  | .feni => encR 3 4 0
  | .fldcw m => encM 1 5 m
  | .fstcw m => encM 1 7 m
  | .fstsw m => encM 5 7 m
  | .fclex => encR 3 4 2
  | .fstenv m => encM 1 6 m
  | .fldenv m => encM 1 4 m
  | .fsave m => encM 5 6 m
  | .frstor m => encM 5 4 m
  | .fincstp => encR 1 6 7
  | .fdecstp => encR 1 6 6
  | .ffree i => encR 5 0 i
  | .fnop => encR 1 2 0
  | .fwait => [0x9B]
  | .reservedM a b m => encM a b m
  | .reservedR a b i => encR a b i

/-- The bytes of an instruction with its segment-override byte, if any (R127). -/
def encodeFull (seg : Option SegReg) (i : Instr) : List Byte :=
  match seg with
  | none => encode i
  | some g => prefixByte g :: encode i

/-- The bytes of a table row's word as the hardware stores them. The table writes the first two bytes
`b0 ++ b1` with `b0` in the high half (R123), and FWAIT as one byte; every byte after those, up to the
longest instruction (4 bytes), is taken from the bits above, lowest first. -/
def tableBytes (nbits w : Nat) : List Byte :=
  let x := BitVec.ofNat 32 (w % 2 ^ nbits)
  if nbits ≤ 8 then [x.extractLsb' 0 8, 0, 0, 0]
  else [x.extractLsb' 8 8, x.extractLsb' 0 8, x.extractLsb' 16 8, x.extractLsb' 24 8]

/-- The instruction the decoder reads from a table row's word; none where it refuses. -/
def decodeTableWord (nbits w : Nat) : Option Instr :=
  match decode (tableBytes nbits w) with
  | .ok (i, _) => some i
  | .error _ => none

end Sys2Proof
end

