-- ==== Sys2Proof/Machine/State.lean ====
section
/-! DEFINITION. The machine's state as plain data (spec/10_state.md R20 to R66), its inputs, and the
reasons a step can stop. -/

namespace Sys2Proof.Machine

/-- The four tags (10_state.md R43, R44). -/
inductive Tag where
  | valid | zero | special | empty
deriving DecidableEq, Repr, Inhabited

/-- One bit for each of the six exceptions (60_exceptions.md R484): the flags of the status word, or
the masks of the control word, or the exceptions an instruction has detected. -/
structure ExcSet where
  i : Bool
  d : Bool
  z : Bool
  o : Bool
  u : Bool
  p : Bool
deriving DecidableEq, Repr, Inhabited

/-- The status word (10_state.md R30) but for bit 6, which holds nothing (R36, log 15). -/
structure Status where
  busy : Bool
  c3 : Bool
  top : BitVec 3
  c2 : Bool
  c1 : Bool
  c0 : Bool
  ir : Bool
  ex : ExcSet
deriving DecidableEq, Repr, Inhabited

/-- The control word (10_state.md R39); `rsv` is bits 15:13 and bit 6 (R47). -/
structure Control where
  ic : Bool
  rc : BitVec 2
  pc : BitVec 2
  iem : Bool
  masks : ExcSet
  rsv : BitVec 4
deriving DecidableEq, Repr, Inhabited

/-- The registers of the CPU from which it forms an operand address (30_encoding.md R124). -/
structure CpuRegs where
  bx : Word
  bp : Word
  si : Word
  di : Word
  cs : Word
  ds : Word
  es : Word
  ss : Word
deriving DecidableEq, Repr, Inhabited

/-- What the CPU presents with an instruction: the event of 30_encoding.md R121, with the data from
which its `ea` follows by R124 (log 1). -/
structure Port where
  /-- the address of the escape byte -/
  ia : Addr
  /-- the 11-bit opcode (R123) -/
  op : BitVec 11
  /-- the segment-override byte in front, if any -/
  seg : Option SegReg
  cpu : CpuRegs
deriving DecidableEq, Repr, Inhabited

/-- An instruction with the data its event brought: the one the NEU runs, or the queued one. -/
structure Job where
  instr : Instr
  port : Port
  /-- the bytes of its memory operand that another agent has written meanwhile (20_memory.md R96, U20) -/
  raced : List Nat
deriving DecidableEq, Repr, Inhabited

/-- An instruction event (30_encoding.md R121). -/
structure Event where
  /-- the CPU executed a WAIT immediately before -/
  wait : Bool
  /-- the CPU's next action comes before the NEU has completed this instruction (60_exceptions.md R473) -/
  overlap : Bool
  /-- the address of the escape byte, or of the WAIT itself -/
  ia : Addr
  /-- the instruction's bytes: a segment-override prefix, if any (R127), then the escape byte, the
  addressing byte and the displacement -/
  bytes : List Byte
  cpu : CpuRegs
deriving DecidableEq, Repr, Inhabited

/-- What the outside world does, one action at a time (60_exceptions.md R470). -/
inductive Input where
  /-- the CPU reaches an NDP instruction or a WAIT -/
  | insn (e : Event)
  /-- the NEU completes the running instruction (R474) -/
  | neuDone
  /-- the CPU takes the NDP's interrupt (R491) -/
  | takeInterrupt
  /-- the CPU reads a byte of memory; `cpuData` shows what it gets (20_memory.md R96) -/
  | cpuRead (a : Addr)
  /-- the CPU writes a byte of memory (R96, R98) -/
  | cpuWrite (a : Addr) (b : Byte)
  /-- hardware RESET (70_reset_and_hazards.md R520) -/
  | reset
deriving DecidableEq, Repr, Inhabited

/-- `size` consecutive addresses from `base` up, modulo 2^20. -/
structure Span where
  base : Addr
  size : Nat
deriving DecidableEq, Repr, Inhabited

/-- The address lies in the span. -/
def Span.has (r : Span) (a : Nat) : Bool := (BitVec.ofNat 20 a - r.base).toNat < r.size

/-- `busy_when_iem` (92_eei_decisions.md D10): what an unmasked exception does while `IEM` is 1. -/
inductive BusyWhenIem where
  /-- the NDP stops, holds BUSY and shows IR = 1 -/
  | hold
  /-- it does not stop and BUSY is released; IR reads as given -/
  | release (ir : Bool)
deriving DecidableEq, Repr, Inhabited

/-- `reserved_opcode` (30_encoding.md R147, 92_eei_decisions.md D14): what an opcode does to which no
instruction is assigned. -/
inductive ReservedOpcode where
  /-- the program is refused -/
  | refuse
  /-- nothing -/
  | nop
  /-- the first 11 bits of a pair stand for the instruction of the second; others do nothing -/
  | aliased (pairs : List (BitVec 11 × BitVec 11))
deriving DecidableEq, Repr, Inhabited

/-- `nowait_race` (60_exceptions.md R472, D24): what an instruction without a WAIT, not one of the eight
no-wait forms, does while the NDP is busy or an exception is pending. -/
inductive NowaitRace where
  /-- the program is refused -/
  | refuse
  /-- it behaves as its wait form, as it does when the NDP is idle -/
  | asWaitForm
deriving DecidableEq, Repr, Inhabited

/-- `cw_reserved_bits` (10_state.md R47, 92_eei_decisions.md D12): what bits 15:13 and 6 of a control word read
back as once it has been loaded from memory. -/
inductive ReservedBits where
  /-- as they were loaded -/
  | stored
  /-- undefined -/
  | undefined
deriving DecidableEq, Repr, Inhabited

/-- The parameters that the spec leaves OPEN (00_scope.md R4) and that are plain data: fixed for a
machine, so no step changes them (log 48). The other parameters are constants of Config. -/
structure Settings where
  /-- the allocated memory (92_eei_decisions.md D3) -/
  ram : List Span
  /-- `VEC_EXC`: the CPU's interrupt vector of the exception handler (00_scope.md R4, 60_exceptions.md R483) -/
  vecExc : Byte
  /-- `busy_when_iem` (D10) -/
  busyWhenIem : BusyWhenIem
  /-- `cw_reserved_bits` (10_state.md R47, D12) -/
  cwReserved : ReservedBits
  /-- `ptr_update_set` (10_state.md R51, D13), by its complement: the opcodes of the instructions that do not
  record the exception pointers, as masks and values of the 11 bits -/
  ptrKeep : List (BitVec 11 × BitVec 11)
  /-- `reserved_opcode` (30_encoding.md R147, D14) -/
  reserved : ReservedOpcode
  /-- `nowait_race` (60_exceptions.md R472, D24) -/
  nowaitRace : NowaitRace
  /-- the program's bytes beside its NDP instructions and WAITs: the CPU's own instructions (D6) -/
  program : List Span
  /-- `c_pi`, `c_l2t`, `c_l2e`, `c_lg2`, `c_ln2` (45_constant.md R400, D21) -/
  cPi : TReal
  cL2t : TReal
  cL2e : TReal
  cLg2 : TReal
  cLn2 : TReal
deriving DecidableEq, Repr

/-- A byte that a store cut short or still under way may or may not have changed (20_memory.md R96, R106). -/
structure Transit where
  addr : Addr
  /-- what memory holds where the store does not reach it -/
  old : Byte
  /-- what the NDP stores -/
  new : Byte
deriving DecidableEq, Repr, Inhabited

/-- Memory: the bytes that are not 00H, in order of address (20_memory.md R80; log 6). -/
abbrev Memory := List Host.Cell

/-- The machine (10_state.md R20, R60 to R66). -/
structure State where
  /-- the physical stack registers (R22) -/
  regs : Vector TReal 8
  /-- their tags, the tag word (R44) -/
  tags : Vector Tag 8
  /-- the status word (R30) -/
  sw : Status
  /-- the control word (R39) -/
  cw : Control
  /-- exception pointers: instruction address, opcode, operand address (R50) -/
  iptr : Addr
  opc : BitVec 11
  dptr : Addr
  /-- the instruction the NEU runs; `neu_busy` holds when there is one (R60) -/
  neu : Option Job
  /-- an unmasked exception has been detected and not yet cleared (R61) -/
  pending : Bool
  /-- the queued FNSAVE or FNSTENV (R62) -/
  queued : Option Job
  /-- what the CPU presents with the current instruction (30_encoding.md R121) -/
  port : Port
  /-- the CPU's actions still to come, in the order they happen (log 1) -/
  inbox : List Input
  /-- the memory shared with the CPU (20_memory.md R80) -/
  mem : Memory
  /-- what the CPU's last read of a byte gave it (20_memory.md R96; log 49) -/
  cpuData : Byte
  /-- the bytes that the CU may still be storing, or whose store FNINIT has cut short, with no WAIT after it
  yet, the newest store first (20_memory.md R96, R99, R106; log 51) -/
  storing : List Transit
  /-- where the instructions lie that the CPU has presented so far (20_memory.md R104, D6) -/
  code : List Span
  /-- the parameters of the machine -/
  conf : Settings
  /-- the model's own: how many times free values have been drawn (log 7) -/
  draws : Nat
deriving DecidableEq, Repr

/-- Why the machine stops. -/
inductive Fault where
  /-- Raised by FWAIT and by the WAIT in front of an instruction, while an unmasked exception is
  pending: the endless wait (60_exceptions.md R490). Safe: the machine is stuck there. -/
  | endlessWait
  /-- Raised by an instruction whose memory operand does not end at or below FFFFFH
  (20_memory.md R89, D4; log 8). Safe: the machine stops where the hardware goes on. -/
  | operandPastTop (ea : Addr)
  /-- Raised by an instruction with a byte of its operand at an address outside the allocated memory, and
  by a CPU access there (20_memory.md R89, R94, D3, D4; log 6). Safe. -/
  | unallocated (a : Nat)
  /-- Raised by the input `takeInterrupt` while the INT line is inactive: there is no request the CPU
  could take (60_exceptions.md R483; log 45). Safe. -/
  | noInterruptRequest
deriving DecidableEq, Repr

/-- Why the machine has no meaning for what it is given. -/
inductive Refusal where
  /-- Raised by `exec`'s arms that have no meaning yet. Safe. -/
  | notModelled (mnemonic : String)
  /-- Raised by a store of either agent into the bytes of the program (20_memory.md R104,
  70_reset_and_hazards.md R542, D6; log 44). Safe. -/
  | storeIntoProgram (a : Nat)
  /-- Raised by an instruction without a WAIT, not one of the eight no-wait forms, while the NDP is
  busy or an exception is pending, under the setting `refuse` (60_exceptions.md R472, D24; log 11). Safe. -/
  | nowaitRace
  /-- Raised by a memory-referencing no-wait instruction while one is queued
  (10_state.md R62, U6; log 12). Safe. -/
  | queueOverrun
  /-- Raised by a reserved opcode under the setting `refuse` (30_encoding.md R147, D14; log 20). Safe. -/
  | reservedOpcode (op : BitVec 11)
  /-- Raised by an event whose bytes are no instruction of this machine (30_encoding.md R120, R135). Safe. -/
  | undecodable (e : DecodeError)
deriving DecidableEq, Repr

/-- No exception. -/
def ExcSet.none : ExcSet := ⟨false, false, false, false, false, false⟩
/-- All six. -/
def ExcSet.all : ExcSet := ⟨true, true, true, true, true, true⟩

/-- The CPU's registers before it has presented any (log 2). -/
def CpuRegs.zero : CpuRegs := ⟨0, 0, 0, 0, 0, 0, 0, 0⟩

/-- The settings that the spec chooses or recommends, and all of the address space allocated (log 48).
The opcodes that record no exception pointers are those of the processor control instructions with a memory
operand, cells 4 to 7 of D9 and of DD, and of FENI, FDISI, FCLEX and FINIT, DB E0 to E3 (10_state.md R51);
the reserved opcodes are no-operations, where D14 recommends to refuse them (log 20). -/
def Settings.recommended : Settings where
  ram := [⟨0, 2 ^ 20⟩]
  vecExc := 16
  busyWhenIem := .hold
  cwReserved := .undefined
  ptrKeep := [
    (0b11110100000, 0b00100100000), (0b11111100000, 0b00110100000),
    (0b11110100000, 0b10100100000), (0b11111100000, 0b10110100000),
    (0b11111111100, 0b01111100000)]
  reserved := .nop
  nowaitRace := .refuse
  program := []
  cPi := 0x4000C90FDAA22168C235
  cL2t := 0x4000D49A784BCD1B8AFE
  cL2e := 0x3FFFB8AA3B295C17F0BC
  cLg2 := 0x3FFD9A209A84FBCFF799
  cLn2 := 0x3FFEB17217F7D1CF79AC

/-- The machine right after RESET (10_state.md R66; values the spec does not give: logs 2 to 7). -/
def State.reset : State where
  regs := Vector.replicate 8 0
  tags := Vector.replicate 8 .empty
  sw := { busy := false, c3 := false, top := 0, c2 := false, c1 := false, c0 := false, ir := false, ex := .none }
  cw := { ic := false, rc := 0, pc := 3, iem := true, masks := .all, rsv := 1 }
  iptr := 0
  opc := 0
  dptr := 0
  neu := none
  pending := false
  queued := none
  port := { ia := 0, op := 0, seg := none, cpu := .zero }
  inbox := []
  mem := []
  cpuData := 0
  storing := []
  code := []
  conf := .recommended
  draws := 0

end Sys2Proof.Machine
end

