-- ==== Sys2Proof/Machine/Flags.lean ====
section
/-! DEFINITION. The status, control and tag words as 16-bit words, sets of exceptions, and which of
several detected exceptions govern (spec/10_state.md R30 to R48; spec/60_exceptions.md R477, R484, R489). -/

namespace Sys2Proof.Machine

/-- The six bits in the order of the status word's low byte: P U O Z D I (R30, R40). -/
def ExcSet.toBits (x : ExcSet) : BitVec 6 :=
  BitVec.ofBool x.p ++ BitVec.ofBool x.u ++ BitVec.ofBool x.o ++
  BitVec.ofBool x.z ++ BitVec.ofBool x.d ++ BitVec.ofBool x.i

/-- The set from its six bits. -/
def ExcSet.ofBits (b : BitVec 6) : ExcSet :=
  { i := b.getLsbD 0, d := b.getLsbD 1, z := b.getLsbD 2, o := b.getLsbD 3, u := b.getLsbD 4, p := b.getLsbD 5 }

/-- Exceptions in either set. -/
def ExcSet.union (x y : ExcSet) : ExcSet :=
  ⟨x.i || y.i, x.d || y.d, x.z || y.z, x.o || y.o, x.u || y.u, x.p || y.p⟩

/-- Exceptions in both sets. -/
def ExcSet.inter (x y : ExcSet) : ExcSet :=
  ⟨x.i && y.i, x.d && y.d, x.z && y.z, x.o && y.o, x.u && y.u, x.p && y.p⟩

/-- Some exception of the set is not masked (60_exceptions.md R482, `unm`). -/
def ExcSet.unmasked (x masks : ExcSet) : Bool :=
  (x.i && !masks.i) || (x.d && !masks.d) || (x.z && !masks.z) ||
  (x.o && !masks.o) || (x.u && !masks.u) || (x.p && !masks.p)

/-- One exception. -/
def ExcSet.onlyI : ExcSet := { ExcSet.none with i := true }
/-- One exception. -/
def ExcSet.onlyD : ExcSet := { ExcSet.none with d := true }
/-- One exception. -/
def ExcSet.onlyZ : ExcSet := { ExcSet.none with z := true }
/-- One exception. -/
def ExcSet.onlyP : ExcSet := { ExcSet.none with p := true }

/-- I, if the condition holds. -/
def ExcSet.invalidIf (b : Bool) : ExcSet := { ExcSet.none with i := b }

/-- The exceptions found from the operands, in the order I, D, Z: those flagged, and whether one of
them is unmasked, so that the instruction is abandoned and no later one is examined
(60_exceptions.md R489, D23). -/
def ExcSet.screen (found masks : ExcSet) : ExcSet × Bool :=
  if found.i && !masks.i then ({ ExcSet.none with i := true }, true)
  else if found.d && !masks.d then ({ ExcSet.none with i := found.i, d := true }, true)
  else if found.z && !masks.z then ({ ExcSet.none with i := found.i, d := found.d, z := true }, true)
  else ({ ExcSet.none with i := found.i, d := found.d, z := found.z }, false)

/-- The status word (10_state.md R30); bit 6 is handed in (R36). -/
def Status.toBits (w : Status) (bit6 : Bool) : Word :=
  BitVec.ofBool w.busy ++ BitVec.ofBool w.c3 ++ w.top ++ BitVec.ofBool w.c2 ++ BitVec.ofBool w.c1 ++
  BitVec.ofBool w.c0 ++ BitVec.ofBool w.ir ++ BitVec.ofBool bit6 ++ w.ex.toBits

/-- The status word of an image; bit 6 is ignored (R30, R36). -/
def Status.ofBits (b : Word) : Status :=
  { busy := b.getLsbD 15, c3 := b.getLsbD 14, top := b.extractLsb' 11 3, c2 := b.getLsbD 10,
    c1 := b.getLsbD 9, c0 := b.getLsbD 8, ir := b.getLsbD 7, ex := ExcSet.ofBits (b.extractLsb' 0 6) }

/-- The condition code `C3 C2 C1 C0` as four bits. -/
def Status.code (w : Status) : BitVec 4 :=
  BitVec.ofBool w.c3 ++ BitVec.ofBool w.c2 ++ BitVec.ofBool w.c1 ++ BitVec.ofBool w.c0

/-- Set the condition code from four bits `C3 C2 C1 C0` (R30, R33). -/
def Status.withCode (w : Status) (c : BitVec 4) : Status :=
  { w with c3 := c.getLsbD 3, c2 := c.getLsbD 2, c1 := c.getLsbD 1, c0 := c.getLsbD 0 }

/-- The control word after RESET, FINIT and FSAVE: 03FFH (10_state.md R66). -/
def Control.init : Control :=
  { ic := false, rc := 0, pc := 3, iem := true, masks := .all, rsv := 1 }

/-- The control word (10_state.md R39). -/
def Control.toBits (c : Control) : Word :=
  c.rsv.extractLsb' 1 3 ++ BitVec.ofBool c.ic ++ c.rc ++ c.pc ++ BitVec.ofBool c.iem ++
  c.rsv.extractLsb' 0 1 ++ c.masks.toBits

/-- The control word of sixteen bits, its reserved bits as they stand (R39). -/
def Control.ofBits (b : Word) : Control :=
  { ic := b.getLsbD 12, rc := b.extractLsb' 10 2, pc := b.extractLsb' 8 2, iem := b.getLsbD 7,
    masks := ExcSet.ofBits (b.extractLsb' 0 6), rsv := b.extractLsb' 13 3 ++ b.extractLsb' 6 1 }

/-- A control word loaded from memory: its reserved bits stay, or become the free ones handed in
(R47, D12; log 16). -/
def Control.load (kept : ReservedBits) (b : Word) (free : BitVec 4) : Control :=
  match kept with
  | .stored => Control.ofBits b
  | .undefined => { Control.ofBits b with rsv := free }

/-- The two bits of a tag (10_state.md R44). -/
def Tag.toBits : Tag → BitVec 2
  | .valid => 0 | .zero => 1 | .special => 2 | .empty => 3

/-- The tag of two bits (R44). -/
def Tag.ofBits (b : BitVec 2) : Tag :=
  match b.toNat with
  | 0 => .valid | 1 => .zero | 2 => .special | _ => .empty

/-- An undefined tag among valid, zero and special (44_transcendental.md R380). -/
def Tag.nonEmpty (b : BitVec 2) : Tag :=
  match b.toNat with
  | 1 => .zero | 2 => .special | _ => .valid

/-- The tag word: `TAG[p]` in bits `2p+1:2p` (R44). -/
def tagWord (t : Vector Tag 8) : Word :=
  t[7].toBits ++ t[6].toBits ++ t[5].toBits ++ t[4].toBits ++
  t[3].toBits ++ t[2].toBits ++ t[1].toBits ++ t[0].toBits

/-- The tags of a tag word (R44). -/
def tagsOfWord (b : Word) : Vector Tag 8 :=
  #v[Tag.ofBits (b.extractLsb' 0 2), Tag.ofBits (b.extractLsb' 2 2), Tag.ofBits (b.extractLsb' 4 2),
     Tag.ofBits (b.extractLsb' 6 2), Tag.ofBits (b.extractLsb' 8 2), Tag.ofBits (b.extractLsb' 10 2),
     Tag.ofBits (b.extractLsb' 12 2), Tag.ofBits (b.extractLsb' 14 2)]

end Sys2Proof.Machine
end

