-- ==== Sys2Proof/Machine/Formats.lean ====
section
/-! DEFINITION. The data formats and the values of temporary reals (spec/40_numerics.md R170 to R180,
R210 to R212). -/

namespace Sys2Proof.Machine

/-- The sign bit of a temporary real, true for negative (R176). -/
def signOf (r : TReal) : Bool := r.getLsbD 79
/-- The biased exponent (R176). -/
def expOf (r : TReal) : Nat := (r.extractLsb' 64 15).toNat
/-- The significand with its integer bit (R176). -/
def sigOf (r : TReal) : Nat := (r.extractLsb' 0 64).toNat

/-- `pack(s, e, m)` (R200). -/
def pack (neg : Bool) (e m : Nat) : TReal :=
  BitVec.ofBool neg ++ BitVec.ofNat 15 e ++ BitVec.ofNat 64 m

/-- The same register content with another sign bit. -/
def withSign (neg : Bool) (r : TReal) : TReal := BitVec.ofBool neg ++ r.extractLsb' 0 79

/-- The classes of R178. -/
inductive Class where
  | zero | normal | infinity | nan
  | denormal | pseudoDenormal | unnormal | pseudoZero
  /-- pseudo-infinity and pseudo-NAN: exponent 7FFFH, integer bit 0 -/
  | pseudoSpecial
deriving DecidableEq, Repr, Inhabited

/-- The class of an 80-bit pattern (R178). -/
def classOf (r : TReal) : Class :=
  let e := expOf r
  let m := sigOf r
  if e = 0 then
    if m = 0 then .zero else if m < 2 ^ 63 then .denormal else .pseudoDenormal
  else if e = 0x7FFF then
    if m < 2 ^ 63 then .pseudoSpecial else if m = 2 ^ 63 then .infinity else .nan
  else
    if m = 0 then .pseudoZero else if m < 2 ^ 63 then .unnormal else .normal

/-- The extended domain (R178). -/
def Class.extended : Class → Bool
  | .denormal | .pseudoDenormal | .unnormal | .pseudoZero | .pseudoSpecial => true
  | .zero | .normal | .infinity | .nan => false

/-- The classes that R227 calls denormal operands: they signal D. -/
def Class.denormalOperand : Class → Bool
  | .denormal | .pseudoDenormal | .unnormal | .pseudoZero => true
  | .zero | .normal | .infinity | .nan | .pseudoSpecial => false

/-- `tagof(v)` (10_state.md R43). -/
def tagOf (r : TReal) : Tag :=
  match classOf r with
  | .zero => .zero
  | .normal | .unnormal | .pseudoZero => .valid
  | .infinity | .nan | .denormal | .pseudoDenormal | .pseudoSpecial => .special

/-- A zero (R179). -/
def zeroOf (neg : Bool) : TReal := pack neg 0 0
/-- An infinity (R179). -/
def infOf (neg : Bool) : TReal := pack neg 0x7FFF (2 ^ 63)
/-- The largest finite number (R179). -/
def largestOf (neg : Bool) : TReal := pack neg 0x7FFE (2 ^ 64 - 1)
/-- The real indefinite INDEF (R179). -/
def indefinite : TReal := 0xFFFFC000000000000000#80
/-- +1.0 (R179). -/
def oneReal : TReal := 0x3FFF8000000000000000#80

/-- A finite number `(-1)^neg × m × 2^e`. -/
structure Val where
  neg : Bool
  m : Nat
  e : Int
deriving DecidableEq, Repr, Inhabited

/-- `val(r)` for exponents other than 7FFFH (R177): `m × 2^(E - 63)`. -/
def valOf (r : TReal) : Val :=
  { neg := signOf r, m := sigOf r, e := (if expOf r = 0 then 1 else (expOf r : Int)) - 16446 }

/-- The true exponent `floor(log2 |x|)` of a nonzero number. -/
def Val.exponent (v : Val) : Int := (Nat.log2 v.m : Int) + v.e

/-- The 64-bit significand with integer bit 1 of a positive number whose leading 64 bits hold it all. -/
def normSig (n : Nat) : Nat :=
  if Nat.log2 n ≤ 63 then n <<< (63 - Nat.log2 n) else n >>> (Nat.log2 n - 63)

/-- The temporary real of `(-1)^neg × n × 2^t`, `n` positive with at most 64 significant bits and the
exponent in range: normalized (R200). -/
def packNorm (neg : Bool) (n : Nat) (t : Int) : TReal :=
  pack neg ((Nat.log2 n : Int) + t + 16383).toNat (normSig n)

/-- An integer of at most 64 significant bits as a temporary real; a zero takes the sign handed in. -/
def ofInteger (neg : Bool) (n : Nat) : TReal :=
  if n = 0 then zeroOf neg else packNorm neg n 0

/-- `cvt_int` (R210): exact; zero gives +0.0. -/
def cvtInt (v : Int) : TReal := ofInteger (decide (v < 0)) v.natAbs

/-- An operand read from memory as a temporary real, and whether its conversion detected a denormal. -/
structure Converted where
  d : Bool
  value : TReal
deriving DecidableEq, Repr, Inhabited

/-- The two memory real formats narrower than a register (R175). -/
inductive RealFmt where
  | short | long
deriving DecidableEq, Repr, Inhabited

/-- Width of the exponent field (R175). -/
def RealFmt.expBits : RealFmt → Nat
  | .short => 8 | .long => 11
/-- Width of the fraction field (R175). -/
def RealFmt.fracBits : RealFmt → Nat
  | .short => 23 | .long => 52
/-- The bias (R175). -/
def RealFmt.bias : RealFmt → Nat
  | .short => 127 | .long => 1023
/-- Bytes in memory (R170). -/
def RealFmt.bytes : RealFmt → Nat
  | .short => 4 | .long => 8
/-- All bits of the format. -/
def RealFmt.bits (f : RealFmt) : Nat := 1 + f.expBits + f.fracBits

/-- A memory real from its fields. -/
def RealFmt.pack (f : RealFmt) (neg : Bool) (e frac : Nat) : Nat :=
  (if neg then 2 ^ (f.expBits + f.fracBits) else 0) + e * 2 ^ f.fracBits + frac

/-- The value pushed for a denormal in memory (R226, D26; log 25). -/
def fldDenormalValue (f : RealFmt) (w : Nat) (neg : Bool) (frac : Nat) : TReal :=
  match Config.fldDenormal f.bits (BitVec.ofNat 64 w) with
  | .unnormal => pack neg (16384 - f.bias) (frac <<< (63 - f.fracBits))
  | .normalized => packNorm neg frac (1 - (f.bias : Int) - f.fracBits)
  | .denormal => pack neg 0 (frac <<< (63 - f.fracBits))

/-- `cvt_real` (R212). -/
def cvtReal (f : RealFmt) (w : Nat) : Converted :=
  let frac := w % 2 ^ f.fracBits
  let e := w / 2 ^ f.fracBits % 2 ^ f.expBits
  let neg := decide (w / 2 ^ (f.expBits + f.fracBits) % 2 = 1)
  if e = 0 then
    if frac = 0 then ⟨false, zeroOf neg⟩ else ⟨true, fldDenormalValue f w neg frac⟩
  else if e = 2 ^ f.expBits - 1 then
    ⟨false, pack neg 0x7FFF (2 ^ 63 + frac <<< (63 - f.fracBits))⟩
  else ⟨false, pack neg (e + 16383 - f.bias) ((2 ^ f.fracBits + frac) <<< (63 - f.fracBits))⟩

/-- The two's complement integer types of memory (R171 to R173). -/
inductive IntFmt where
  | word | short | long
deriving DecidableEq, Repr, Inhabited

/-- Width in bits (R170). -/
def IntFmt.bits : IntFmt → Nat
  | .word => 16 | .short => 32 | .long => 64
/-- Bytes in memory (R170). -/
def IntFmt.bytes : IntFmt → Nat
  | .word => 2 | .short => 4 | .long => 8

/-- `sint_n` (00_scope.md R7). -/
def IntFmt.toInt (f : IntFmt) (w : Nat) : Int :=
  let x := w % 2 ^ f.bits
  if x < 2 ^ (f.bits - 1) then (x : Int) else (x : Int) - 2 ^ f.bits

/-- The two's complement bits of an integer. -/
def IntFmt.ofInt (f : IntFmt) (v : Int) : Nat := (v % 2 ^ f.bits).toNat

/-- The integer indefinite 8000...0 (R179). -/
def IntFmt.indefinite (f : IntFmt) : Nat := 2 ^ (f.bits - 1)

/-- The decimal digit `k` of packed-decimal bits (R174). -/
def bcdDigit (w k : Nat) : Nat := w / 16 ^ k % 16

/-- The lowest `n` digits of packed-decimal bits as a number (R174). -/
def bcdValue (w : Nat) : Nat → Nat
  | 0 => 0
  | n + 1 => bcdValue w n + bcdDigit w n * 10 ^ n

/-- Each of the lowest `n` digits is 0 to 9 (R174). -/
def bcdValid (w : Nat) : Nat → Bool
  | 0 => true
  | n + 1 => bcdDigit w n ≤ 9 && bcdValid w n

/-- The lowest `n` decimal digits of a number, one in four bits (R174). -/
def bcdDigits (v : Nat) : Nat → Nat
  | 0 => 0
  | n + 1 => bcdDigits v n + v / 10 ^ n % 10 * 16 ^ n

/-- The sign of a packed decimal: bit 7 of byte 9 (R174). -/
def bcdSign (w : Nat) : Bool := w.testBit 79

/-- `cvt_bcd` of valid digits (R211). -/
def cvtBcd (w : Nat) : TReal := ofInteger (bcdSign w) (bcdValue w 18)

end Sys2Proof.Machine
end

