-- ==== Sys2Proof/Machine/Rounding.lean ====
section
/-! DEFINITION. Rounding, and the delivery of a result to a register (spec/40_numerics.md R195 to R203). -/

namespace Sys2Proof.Machine

/-- A positive magnitude known well enough to be rounded: the number `n × 2^e`, or, with `sticky`, some
number strictly between `n × 2^e` and `(n + 1) × 2^e` (a quotient or a root with a remainder). -/
structure Mag where
  n : Nat
  sticky : Bool
  e : Int
deriving DecidableEq, Repr, Inhabited

/-- `floor(log2 |x|)` (R195). -/
def Mag.exponent (x : Mag) : Int := (Nat.log2 x.n : Int) + x.e

/-- An exact magnitude. -/
def Mag.ofVal (v : Val) : Mag := ⟨v.m, false, v.e⟩

/-- The part of `x / 2^t` below an integer: its floor, and whether the rest is zero, below, equal to or
above one half. -/
structure Quot where
  floor : Nat
  exact : Bool
  tie : Bool
  aboveHalf : Bool
deriving DecidableEq, Repr, Inhabited

/-- `q = x / 2^t`, split at the integer. -/
def Mag.quot (x : Mag) (t : Int) : Quot :=
  if t ≤ x.e then ⟨x.n <<< (x.e - t).toNat, !x.sticky, false, false⟩
  else
    let k := (t - x.e).toNat
    let q := x.n >>> k
    let r := x.n % 2 ^ k
    let half := 2 ^ (k - 1)
    ⟨q, r = 0 && !x.sticky, r = half && !x.sticky, half < r || (r = half && x.sticky)⟩

/-- The integer chosen from `q` by the rounding control, on the magnitude (R195): 00 nearest, ties to
even; 01 down; 10 up; 11 chop. -/
def Quot.round (q : Quot) (rc : BitVec 2) (neg : Bool) : Nat :=
  let up : Bool :=
    match rc.toNat with
    | 0 => q.aboveHalf || (q.tie && q.floor % 2 = 1)
    | 1 => neg && !q.exact
    | 2 => !neg && !q.exact
    | _ => false
  if up then q.floor + 1 else q.floor

/-- The precision of a result (R197). -/
inductive Prec where
  | p24 | p53 | p64
  /-- `PC` = 01, a reserved setting (10_state.md R42) -/
  | reserved
deriving DecidableEq, Repr, Inhabited

/-- Bits of the significand. -/
def Prec.bits : Prec → Nat
  | .p24 => 24 | .p53 => 53 | .p64 | .reserved => 64

/-- `p_arith` (R197). -/
def precOf (pc : BitVec 2) : Prec :=
  match pc.toNat with
  | 0 => .p24 | 1 => .reserved | 2 => .p53 | _ => .p64

/-- `round(x, p, rc)` (R195) as `(n, t, inexact)`: the number `n × 2^t`. -/
def Mag.round (x : Mag) (p : Nat) (rc : BitVec 2) (neg : Bool) : Nat × Int × Bool :=
  let t := x.exponent - p + 1
  let q := x.quot t
  (q.round rc neg, t, !q.exact)

/-- A result for a register: the value, and which of O, U, P its delivery detected. -/
structure Delivered where
  ex : ExcSet
  value : TReal
deriving DecidableEq, Repr, Inhabited

/-- The value `y` with an exponent moved by the constant 24,576 (R202, R203); where the exponent is
still out of range the value is free (log 28). -/
def packWrapped (neg : Bool) (n : Nat) (t : Int) (k : Nat) : TReal :=
  let e := (Nat.log2 n : Int) + t + 16383
  if 1 ≤ e ∧ e ≤ 0x7FFE then packNorm neg n t else Config.freeReal k

/-- Masked overflow (R202): the infinity; with `RC` up or down the parameter `overflow_directed` decides
between it and the largest finite number (log 22). -/
def overflowValue (rc : BitVec 2) (neg : Bool) : TReal :=
  if rc = 0 ∨ rc = 3 then infOf neg
  else if Config.overflowToInfinity rc neg then infOf neg else largestOf neg

/-- `underflow(x)` for a register (R203). -/
def underflow (cw : Control) (prec : Prec) (k : Nat) (neg : Bool) (x : Mag) : Delivered :=
  if cw.masks.u then
    if prec = .p64 then
      let q := x.quot (-16445)
      let n := q.round cw.rc neg
      ⟨{ ExcSet.none with u := true, p := !q.exact }, if n = 0 then zeroOf neg else pack neg 0 n⟩
    else
      -- reduced precision: the position of the rounding is not stated (U15, log 30)
      ⟨{ ExcSet.none with u := true, p := Config.freeUnderflowPrecision k },
        pack neg 0 (Config.freeSignificand k).toNat⟩
  else
    let (n, t, inexact) := x.round prec.bits cw.rc neg
    ⟨{ ExcSet.none with u := true, p := inexact }, packWrapped neg n (t + 24576) k⟩

/-- `overflow(x, y)` for a register (R202), `y = n × 2^t`. -/
def overflow (cw : Control) (k : Nat) (neg : Bool) (n : Nat) (t : Int) (inexact : Bool) : Delivered :=
  if cw.masks.o then ⟨{ ExcSet.none with o := true, p := true }, overflowValue cw.rc neg⟩
  else ⟨{ ExcSet.none with o := true, p := inexact }, packWrapped neg n (t - 24576) k⟩

/-- `result(x, zs)` for a nonzero exact result `x` (R200): the temporary real delivered and the
exceptions O, U, P. `k` numbers the draw of free values. -/
def deliver (cw : Control) (prec : Prec) (k : Nat) (neg : Bool) (x : Mag) : Delivered :=
  if prec = .reserved then
    -- PC = 01: any value (U10, log 31)
    let free := Config.freeReservedPc k
    let tiny := decide (x.exponent < -16382)
    ⟨{ ExcSet.none with u := tiny, o := !tiny && free.getLsbD 0, p := free.getLsbD 1 }, Config.freeReal k⟩
  else if x.exponent < -16382 then underflow cw prec k neg x
  else
    let (n, t, inexact) := x.round prec.bits cw.rc neg
    if (Nat.log2 n : Int) + t > 16383 then overflow cw k neg n t inexact
    else ⟨{ ExcSet.none with p := inexact }, packNorm neg n t⟩

end Sys2Proof.Machine
end

