-- ==== Sys2Proof/Machine/Arith.lean ====
section
/-! DEFINITION. The numeric operations on temporary reals: the basic four, square root, scale, partial
remainder, round to integer, extract, and comparison (spec/40_numerics.md R186 to R190, R220, R221,
R227 to R229; spec/42_arithmetic.md R311 to R317). -/

namespace Sys2Proof.Machine

/-- What an operation makes of its operands: the exceptions found in the operands (I, D, Z), those of
the result (O, U, P), and the value. -/
structure Computed where
  before : ExcSet
  after : ExcSet
  value : TReal
deriving DecidableEq, Repr, Inhabited

/-- A value without any exception. -/
def Computed.exact (v : TReal) : Computed := ⟨.none, .none, v⟩
/-- Invalid operation; the value of the masked response. -/
def Computed.invalid (v : TReal) : Computed := ⟨.onlyI, .none, v⟩
/-- A delivered result. -/
def Computed.ofDelivered (d : Delivered) : Computed := ⟨.none, d.ex, d.value⟩

/-- A set given by the letters it has. -/
def excList (i d z o u p : Bool) : ExcSet := ⟨i, d, z, o, u, p⟩

/-- The exceptions I, D, Z that an open operation meets. An operand of one of the four classes of R227
signals D where the instruction's list has D (Table S-19); and where D is unmasked, D is signalled whatever
the list says and ends the matter, after the I of a NAN (R227, R187, R489; log 23). Else I, D and Z are what
the parameter says among the exceptions of the list, I always for a NAN (R187). -/
def openBefore (list masks : ExcSet) (a b : TReal) (r : OpenResult) : ExcSet :=
  let found := (ExcSet.ofBits r.exc).inter list
  let denormal := (classOf a).denormalOperand || (classOf b).denormalOperand
  let nan := decide (classOf a = .nan) || decide (classOf b = .nan)
  if denormal && !masks.d then { ExcSet.none with i := nan, d := true }
  else { ExcSet.none with i := found.i || nan, d := found.d || (denormal && list.d), z := found.z }

/-- The exceptions O, U, P of an open operation, among those of the instruction's list; O and U exclude
each other (60_exceptions.md R489). -/
def openAfter (list : ExcSet) (r : OpenResult) : ExcSet :=
  let found := (ExcSet.ofBits r.exc).inter list
  { ExcSet.none with o := found.o, u := found.u && !found.o, p := found.p }

/-- An operation under an open parameter (R227, R229, R186; logs 23, 24, 26). -/
def openComputed (op : OpenOp) (list : ExcSet) (cw : Control) (a b : TReal) : Computed :=
  let r := Config.openArith op a b cw.toBits
  ⟨openBefore list cw.masks a b r, openAfter list r, r.value⟩

/-- The NAN an operation returns: of two, the one with the larger significand, on a tie the
destination's (R187). -/
def nanOf (dst src : TReal) : TReal :=
  if classOf dst = .nan then
    if classOf src = .nan ∧ sigOf dst < sigOf src then src else dst
  else src

/-! ### The basic operations -/

/-- The four operations of R220. -/
inductive BasicOp where
  | add | sub | mul | div
deriving DecidableEq, Repr, Inhabited

/-- The same operation as a parameter's argument. -/
def BasicOp.toOpen : BasicOp → OpenOp
  | .add => .add | .sub => .sub | .mul => .mul | .div => .div

/-- A number as an integer multiple of `2^e`, where its own exponent is at least `e`. -/
def Val.scaled (v : Val) (e : Int) : Int :=
  let n : Int := (v.m <<< (v.e - e).toNat : Nat)
  if v.neg then -n else n

/-- The exact sum. -/
def Val.add (a b : Val) : Val :=
  let e := min a.e b.e
  let x := a.scaled e + b.scaled e
  ⟨decide (x < 0), x.natAbs, e⟩

/-- The exact quotient of two magnitudes with 64-bit significands, to 68 bits or one more. -/
def Val.quotient (a b : Val) : Mag :=
  let n := a.m <<< 68
  ⟨n / b.m, n % b.m ≠ 0, a.e - b.e - 68⟩

/-- `a + b` of two zero or normal numbers (R190, R200). -/
def addFinite (cw : Control) (k : Nat) (a b : TReal) : Computed :=
  let x := (valOf a).add (valOf b)
  if x.m = 0 then
    let neg := if sigOf a = 0 ∧ signOf a = signOf b then signOf a else cw.rc = 1
    .exact (zeroOf neg)
  else .ofDelivered (deliver cw (precOf cw.pc) k x.neg (.ofVal x))

/-- `a × b` of two zero or normal numbers (R190, R200). -/
def mulFinite (cw : Control) (k : Nat) (a b : TReal) : Computed :=
  let neg := signOf a ^^ signOf b
  let m := sigOf a * sigOf b
  if m = 0 then .exact (zeroOf neg)
  else .ofDelivered (deliver cw (precOf cw.pc) k neg ⟨m, false, (valOf a).e + (valOf b).e⟩)

/-- `a ÷ b` of two zero or normal numbers (R220, R190, R200). -/
def divFinite (cw : Control) (k : Nat) (a b : TReal) : Computed :=
  let neg := signOf a ^^ signOf b
  if sigOf b = 0 then
    if sigOf a = 0 then .invalid indefinite else ⟨.onlyZ, .none, infOf neg⟩
  else if sigOf a = 0 then .exact (zeroOf neg)
  else .ofDelivered (deliver cw (precOf cw.pc) k neg ((valOf a).quotient (valOf b)))

/-- The other sign. -/
def negate (r : TReal) : TReal := withSign (!signOf r) r

/-- The table of R186 where an operand is an infinity and none is a NAN; none for its invalid cells. -/
def arithInfinite (affine : Bool) (op : BasicOp) (a b : TReal) : Option TReal :=
  let neg := signOf a ^^ signOf b
  let infA := decide (classOf a = .infinity)
  let infB := decide (classOf b = .infinity)
  let sum (b : TReal) : Option TReal :=
    if infA && infB then
      if affine && signOf a = signOf b then some a else none
    else if infA then some a else some b
  match op with
  | .add => sum b
  | .sub => sum (negate b)
  | .mul => if classOf a = .zero ∨ classOf b = .zero then none else some (infOf neg)
  | .div => if infA && infB then none else if infA then some (infOf neg) else some (zeroOf neg)

/-- `arith(op, a, b)` (R220) with the NAN that a NAN operand makes the result. `list` is the
instruction's list of exceptions. -/
def arithOrdered (list : ExcSet) (cw : Control) (k : Nat) (op : BasicOp) (nan a b : TReal) : Computed :=
  if (classOf a).extended || (classOf b).extended then openComputed op.toOpen list cw a b
  else if classOf a = .nan ∨ classOf b = .nan then .invalid nan
  else if classOf a = .infinity ∨ classOf b = .infinity then
    match arithInfinite cw.ic op a b with
    | some v => .exact v
    | none => .invalid indefinite
  else
    match op with
    | .add => addFinite cw k a b
    | .sub => addFinite cw k a (negate b)
    | .mul => mulFinite cw k a b
    | .div => divFinite cw k a b

/-- `arith` of a destination and a source; `rev` makes the source the first operand (42_arithmetic.md R291). -/
def arith (list : ExcSet) (cw : Control) (k : Nat) (op : BasicOp) (rev : Bool) (dst src : TReal) : Computed :=
  arithOrdered list cw k op (nanOf dst src) (if rev then src else dst) (if rev then dst else src)

/-! ### Square root -/

/-- `floor(sqrt n)` for `n < 4^k`. -/
def isqrt (n : Nat) : Nat → Nat
  | 0 => 0
  | k + 1 =>
    let r := 2 * isqrt (n / 4) k
    if (r + 1) * (r + 1) ≤ n then r + 1 else r

/-- The square root of a positive normal number, to 68 bits or one more. -/
def Val.sqrt (v : Val) : Mag :=
  let sh : Nat := if v.e % 2 = 0 then 72 else 73
  let n := v.m <<< sh
  let r := isqrt n 70
  ⟨r, r * r ≠ n, (v.e - sh) / 2⟩

/-- FSQRT's result (R311); never O or U, also under `PC` = 01 (log 31). -/
def sqrtOf (cw : Control) (k : Nat) (a : TReal) : Computed :=
  if (classOf a).extended then openComputed .sqrt (excList true true false false false true) cw a a
  else
    match classOf a with
    | .nan => .invalid a
    | .zero => .exact a
    | .infinity => if cw.ic && !signOf a then .exact a else .invalid indefinite
    | _ =>
      if signOf a then .invalid indefinite
      else
        let d := deliver cw (precOf cw.pc) k false (valOf a).sqrt
        ⟨.none, { ExcSet.none with p := d.ex.p }, d.value⟩

/-! ### Scale -/

/-- The value `X` of the scale factor lies in `-2^15 ≤ X < 2^15`, and not in `0 < |X| < 1` (R312). -/
def scaleInRange (x : TReal) : Bool :=
  let e := (valOf x).exponent
  sigOf x = 0 || (0 ≤ e && (e < 15 || (e = 15 && signOf x && sigOf x = 2 ^ Nat.log2 (sigOf x))))

/-- The scale factor chopped toward 0 (R312). -/
def scaleAmount (x : TReal) : Int :=
  let n : Int := ((Mag.ofVal (valOf x)).quot 0).floor
  if signOf x then -n else n

/-- The result of scaling a number in `ST` by a factor that is in range (R312, U16; logs 23, 24, 26, 29). -/
def scaleBy (cw : Control) (k : Nat) (a x : TReal) : Computed :=
  match classOf a with
  | .zero => .exact a
  | .normal =>
    let v := valOf a
    let d := deliver cw .p64 k v.neg ⟨v.m, false, v.e + scaleAmount x⟩
    ⟨.none, { d.ex with p := d.ex.p && Config.freeScalePrecision k }, d.value⟩
  | .nan => .invalid a
  | .infinity | .denormal | .pseudoDenormal | .unnormal | .pseudoZero | .pseudoSpecial =>
    openComputed .scale (excList true false false true true false) cw a x

/-- FSCALE's result: `a` in `ST`, the scale factor `x` in `ST(1)` (R312, U2). A NAN in either follows
R187 (D17; log 27), and beside it a denormal operand in the other signals D where that is unmasked (40_numerics.md
R227; that it does so whatever its range is log 23); an infinite factor is under `inf_scale_extract` (R186, D17; log 26). An unnormal or a
pseudo-zero as factor whose value is in range is an undefined factor of R312, but with D unmasked signals D,
as R227 says of FSCALE's operands (the model's choice between the two rules, log 23). -/
def scaleOf (cw : Control) (k : Nat) (a x : TReal) : Computed :=
  let denormal := (classOf a).denormalOperand || (classOf x).denormalOperand
  if classOf a = .nan ∨ classOf x = .nan then ⟨{ ExcSet.onlyI with d := denormal && !cw.masks.d }, .none, nanOf a x⟩
  else if classOf x = .infinity then openComputed .scale (excList true false false true true false) cw a x
  else if !scaleInRange x then .exact (Config.freeReal k)
  else if (classOf x).extended then
    ⟨if (classOf x).denormalOperand && !cw.masks.d then .onlyD else .none, .none, Config.freeReal k⟩
  else scaleBy cw k a x

/-! ### Partial remainder -/

/-- FPREM's result with the condition code bits it defines (R315). -/
structure Remainder where
  result : Computed
  /-- C2: the reduction is not complete -/
  partialResult : Bool
  /-- the three low bits of the quotient; free when the reduction is not complete -/
  quotient : BitVec 3
deriving DecidableEq, Repr, Inhabited

/-- A positive integer has at most 64 significant bits. -/
def fits64 (n : Nat) : Bool := n % 2 ^ (Nat.log2 n - 63) = 0

/-- How many times an incomplete reduction takes the modulus off (`fprem_partial`, R315, D18; log 32):
the parameter's value where it is at least once, at most the whole quotient, and leaves a temporary
real; else the whole quotient. `na` and `nb` are the magnitudes in a common unit. -/
def partialQuotient (a b : TReal) (na nb : Nat) : Nat :=
  let q := Config.fpremQuotient a b
  if 1 ≤ q ∧ q ≤ na / nb ∧ fits64 (na - q * nb) then q else na / nb

/-- The remainder `r × 2^e` with the dividend's sign: exact, a zero where nothing is left (R315). -/
def remainderOf (cw : Control) (k : Nat) (neg : Bool) (r : Nat) (e : Int) : Computed :=
  if r = 0 then .exact (zeroOf neg) else .ofDelivered (deliver cw .p64 k neg ⟨r, false, e⟩)

/-- FPREM on two normal numbers (R315). -/
def premFinite (cw : Control) (k : Nat) (a b : TReal) : Remainder :=
  let va := valOf a
  let vb := valOf b
  let e := min va.e vb.e
  let na := va.m <<< (va.e - e).toNat
  let nb := vb.m <<< (vb.e - e).toNat
  if va.exponent - vb.exponent < 64 then
    ⟨remainderOf cw k va.neg (na % nb) e, false, BitVec.ofNat 3 (na / nb)⟩
  else
    ⟨remainderOf cw k va.neg (na - partialQuotient a b na nb * nb) e, true,
      (Config.freeCode k).extractLsb' 0 3⟩

/-- FPREM's result: dividend `a`, modulus `b` (R315). -/
def premOf (cw : Control) (k : Nat) (a b : TReal) : Remainder :=
  if (classOf a).extended || (classOf b).extended then
    ⟨openComputed .prem (excList true true false false true false) cw a b,
      (Config.freeCode k).getLsbD 3, (Config.freeCode k).extractLsb' 0 3⟩
  else if classOf a = .nan ∨ classOf b = .nan then
    ⟨.invalid (nanOf a b), (Config.freeCode k).getLsbD 3, (Config.freeCode k).extractLsb' 0 3⟩
  else if classOf a = .infinity ∨ classOf b = .zero then
    ⟨.invalid indefinite, (Config.freeCode k).getLsbD 3, (Config.freeCode k).extractLsb' 0 3⟩
  else if classOf b = .infinity ∨ classOf a = .zero then ⟨.exact a, false, 0⟩
  else premFinite cw k a b

/-! ### Round to integer, extract -/

/-- FRNDINT's result (R316, R196). -/
def rndintOf (cw : Control) (a : TReal) : Computed :=
  match classOf a with
  | .nan => .invalid a
  | .zero | .infinity => .exact a
  | .normal =>
    let q := (Mag.ofVal (valOf a)).quot 0
    ⟨.none, { ExcSet.none with p := !q.exact }, ofInteger (signOf a) (q.round cw.rc (signOf a))⟩
  | .denormal | .pseudoDenormal | .unnormal | .pseudoZero | .pseudoSpecial =>
    openComputed .rndint (excList true false false false false true) cw a a

/-- FXTRACT's two results (R317): the exponent, which replaces `ST`, and the significand, which is pushed. -/
structure Extracted where
  before : ExcSet
  exponent : TReal
  significand : TReal
deriving DecidableEq, Repr, Inhabited

/-- FXTRACT (R317); its invalid arm gives two indefinites (log 41). -/
def xtractOf (cw : Control) (a : TReal) : Extracted :=
  match classOf a with
  | .zero => ⟨.none, a, a⟩
  | .normal => ⟨.none, cvtInt ((expOf a : Int) - 16383), pack (signOf a) 0x3FFF (sigOf a)⟩
  | .nan => ⟨.onlyI, indefinite, indefinite⟩
  | .infinity | .denormal | .pseudoDenormal | .unnormal | .pseudoZero | .pseudoSpecial =>
    let r := openComputed .extractExponent (excList true false false false false false) cw a a
    ⟨r.before, r.value, (Config.openArith .extractSignificand a a cw.toBits).value⟩

/-! ### Comparison -/

/-- The outcome of a comparison (R221). -/
inductive Order where
  | greater | less | equal | unordered
deriving DecidableEq, Repr, Inhabited

/-- `C3 C0` of an outcome (43_comparison.md R350). -/
def Order.c3 : Order → Bool
  | .equal | .unordered => true
  | .greater | .less => false
/-- `C3 C0` of an outcome (R350). -/
def Order.c0 : Order → Bool
  | .less | .unordered => true
  | .greater | .equal => false

/-- The order of two integers. -/
def orderInt (x y : Int) : Order :=
  if y < x then .greater else if x < y then .less else .equal

/-- The order that two bits of a parameter name. -/
def orderOfBits (b : BitVec 2) : Order :=
  match b.toNat with
  | 0 => .greater | 1 => .less | 2 => .equal | _ => .unordered

/-- -1, 0 or 1 for minus infinity, a finite number, plus infinity. -/
def infinityRank (r : TReal) : Int :=
  if classOf r = .infinity then (if signOf r then -1 else 1) else 0

/-- A NAN, or an infinity under projective control, cannot be compared (R221). -/
def neverOrdered (cw : Control) (a b : TReal) : Bool :=
  classOf a = .nan ∨ classOf b = .nan ∨ ((classOf a = .infinity ∨ classOf b = .infinity) ∧ cw.ic = false)

/-- `cmp(a, b)` (R221), with the parameter where an operand is in the extended domain (R227, R229; logs 23, 24). -/
def compareReal (cw : Control) (a b : TReal) : Order :=
  if neverOrdered cw a b then .unordered
  else if (classOf a).extended || (classOf b).extended then orderOfBits (Config.openCompare a b cw.toBits)
  else if classOf a = .infinity ∨ classOf b = .infinity then orderInt (infinityRank a) (infinityRank b)
  else
    let va := valOf a
    let vb := valOf b
    let e := min va.e vb.e
    orderInt (va.scaled e) (vb.scaled e)

/-- FXAM's `C3 C2 C0` (43_comparison.md R358; log 24 for the patterns with exponent 7FFFH). -/
def examClass (r : TReal) : BitVec 3 :=
  match classOf r with
  | .unnormal | .pseudoZero => 0
  | .nan => 1
  | .normal => 2
  | .infinity => 3
  | .zero => 4
  | .denormal | .pseudoDenormal => 6
  | .pseudoSpecial => Config.pseudoClass r

end Sys2Proof.Machine
end

