-- ==== Sys2Proof/Machine/Convert.lean ====
section
/-! DEFINITION. Conversion of a register for a store to memory (spec/40_numerics.md R213 to R216). -/

namespace Sys2Proof.Machine

/-- What a converting store found, and the bits to be stored. -/
structure Stored where
  before : ExcSet
  after : ExcSet
  bits : Nat
deriving DecidableEq, Repr, Inhabited

/-- A converting store under an open parameter (R227, R228, R229; logs 23, 24). An unmasked D stops it:
R213 and R215, and the lists of Table S-19 with them, are for the core domain, R227 is for these operands. -/
def openStored (op : OpenStore) (list : ExcSet) (cw : Control) (r : TReal) : Stored :=
  let x := Config.openStore op r cw.toBits
  ⟨openBefore list cw.masks r r x, openAfter list x, x.value.toNat⟩

/-- The parameter's name of an integer destination. -/
def IntFmt.toOpen : IntFmt → OpenStore
  | .word => .int16 | .short => .int32 | .long => .int64

/-- The range test of `to_int`, on the rounded value (R213). -/
def intStored (f : IntFmt) (v : Int) (exact : Bool) : Stored :=
  if v < -2 ^ (f.bits - 1) ∨ v > 2 ^ (f.bits - 1) - 1 then ⟨.onlyI, .none, f.indefinite⟩
  else ⟨.none, { ExcSet.none with p := !exact }, f.ofInt v⟩

/-- `round_int` (R196), as a signed integer. -/
def roundInt (cw : Control) (r : TReal) : Int :=
  let n := ((Mag.ofVal (valOf r)).quot 0).round cw.rc (signOf r)
  if signOf r then -n else n

/-- `to_int` (R213). -/
def toInt (cw : Control) (f : IntFmt) (r : TReal) : Stored :=
  match classOf r with
  | .nan | .infinity => ⟨.onlyI, .none, f.indefinite⟩
  | .zero | .normal => intStored f (roundInt cw r) ((Mag.ofVal (valOf r)).quot 0).exact
  | .denormal | .pseudoDenormal | .unnormal | .pseudoZero | .pseudoSpecial =>
    openStored f.toOpen (excList true false false false false true) cw r

/-- The packed decimal indefinite: bytes 9 and 8 are FFH, the others free (R179, U14; log 38). -/
def bcdIndefinite (k : Nat) : Nat := 0xFFFF * 2 ^ 64 + (Config.freeBcd k).toNat

/-- The range test of `to_bcd`, and the digits of a magnitude (R215, R174). -/
def bcdStored (k : Nat) (neg : Bool) (v : Nat) : Stored :=
  if v > 10 ^ 18 - 1 then ⟨.onlyI, .none, bcdIndefinite k⟩
  else ⟨.none, .none, (if neg then 2 ^ 79 else 0) + bcdDigits v 18⟩

/-- 0.5 is added to the magnitude, which is then chopped (R215, D15). -/
def addHalf (r : TReal) : Nat :=
  let q := (Mag.ofVal (valOf r)).quot 0
  if q.tie || q.aboveHalf then q.floor + 1 else q.floor

/-- `to_bcd` (R215). -/
def toBcd (cw : Control) (k : Nat) (r : TReal) : Stored :=
  match classOf r with
  | .nan | .infinity => ⟨.onlyI, .none, bcdIndefinite k⟩
  | .zero | .normal => bcdStored k (signOf r) (addHalf r)
  | .denormal | .pseudoDenormal | .unnormal | .pseudoZero | .pseudoSpecial =>
    openStored .bcd (excList true false false false false false) cw r

/-- The parameter's name of a real destination. -/
def RealFmt.toOpen : RealFmt → OpenStore
  | .short => .short | .long => .long

/-- The bits of a special register, chopped (R214; log 39). -/
def chopReal (f : RealFmt) (r : TReal) : Nat :=
  f.pack (signOf r) (expOf r % 2 ^ f.expBits) (sigOf r % 2 ^ 63 / 2 ^ (63 - f.fracBits))

/-- A masked overflow in a memory format: its infinity; `overflow_directed` under `RC` up or down
(R214, R202, D16; log 22). -/
def overflowReal (f : RealFmt) (rc : BitVec 2) (neg : Bool) : Nat :=
  if rc = 0 ∨ rc = 3 ∨ Config.overflowToInfinity rc neg then f.pack neg (2 ^ f.expBits - 1) 0
  else f.pack neg (2 ^ f.expBits - 2) (2 ^ f.fracBits - 1)

/-- A normal number denormalized to the format (R203, R204, R214). -/
def denormalizeReal (cw : Control) (f : RealFmt) (neg : Bool) (x : Mag) : Stored :=
  let q := x.quot (1 - (f.bias : Int) - f.fracBits)
  let n := q.round cw.rc neg
  ⟨.none, { ExcSet.none with u := true, p := !q.exact },
    if n = 2 ^ f.fracBits then f.pack neg 1 0 else f.pack neg 0 n⟩

/-- A normal number rounded to the format (R214). -/
def roundReal (cw : Control) (f : RealFmt) (neg : Bool) (x : Mag) : Stored :=
  if x.exponent < 1 - (f.bias : Int) then denormalizeReal cw f neg x
  else
    let (n, t, inexact) := x.round (f.fracBits + 1) cw.rc neg
    let e := (Nat.log2 n : Int) + t
    if e > f.bias then ⟨.none, { ExcSet.none with o := true, p := true }, overflowReal f cw.rc neg⟩
    else ⟨.none, { ExcSet.none with p := inexact },
      f.pack neg (e + f.bias).toNat (n >>> (Nat.log2 n - f.fracBits) - 2 ^ f.fracBits)⟩

/-- `to_real` (R214). -/
def toReal (cw : Control) (f : RealFmt) (r : TReal) : Stored :=
  match classOf r with
  | .infinity | .nan | .denormal | .pseudoDenormal | .pseudoSpecial => ⟨.none, .none, chopReal f r⟩
  | .zero => ⟨.none, .none, f.pack (signOf r) 0 0⟩
  | .normal => roundReal cw f (signOf r) (.ofVal (valOf r))
  | .unnormal | .pseudoZero =>
    let x := Config.openStore f.toOpen r cw.toBits
    let list := excList true false false true true true
    ⟨.invalidIf (ExcSet.ofBits x.exc).i, openAfter list x, x.value.toNat⟩

/-- The real indefinite in a memory format: FFC00000H, FFF8000000000000H (R179). -/
def RealFmt.indefinite (f : RealFmt) : Nat := chopReal f Machine.indefinite

end Sys2Proof.Machine
end

