-- ==== Sys2Proof/Machine/Memory.lean ====
section
/-! DEFINITION. Memory: bytes by physical address, little-endian (spec/20_memory.md R80, R84, R85;
spec/00_scope.md R10). -/

namespace Sys2Proof.Machine

/-- What an address that is not listed reads as (log 6). -/
def Memory.unlisted : Byte := 0

/-- The byte at an address. -/
def Memory.read (m : Memory) (a : Nat) : Byte :=
  match m with
  | [] => Memory.unlisted
  | (k, b) :: t => if a = k then b else Memory.read t a

/-- Put a byte in front of the cells above it, or leave it out where it is what an unlisted address reads as. -/
def Memory.cons (a : Nat) (b : Byte) (t : Memory) : Memory :=
  if b = Memory.unlisted then t else (a, b) :: t

/-- Write a byte, keeping the canonical form. -/
def Memory.write (m : Memory) (a : Nat) (b : Byte) : Memory :=
  match m with
  | [] => Memory.cons a b []
  | (k, c) :: t =>
    if a < k then Memory.cons a b ((k, c) :: t)
    else if a = k then Memory.cons a b t
    else (k, c) :: Memory.write t a b

/-- The canonical form: addresses below 2^20, strictly rising, none listed that reads as unlisted ones do. -/
def Memory.wf (m : Memory) : Bool :=
  match m with
  | [] => true
  | (k, b) :: t => k < 2 ^ 20 && b ≠ Memory.unlisted && t.all (fun c => k < c.1) && Memory.wf t

/-- `MemRead(a, n)` (00_scope.md R10): byte `k` of the value is the byte at `a + k`. -/
def Memory.readLE (m : Memory) (a : Nat) : Nat → Nat
  | 0 => 0
  | n + 1 => (m.read a).toNat + 256 * m.readLE (a + 1) n

/-- `MemWrite(a, n, v)` (00_scope.md R10): byte `k` of `v` goes to `a + k`. -/
def Memory.writeLE (m : Memory) (a : Nat) : Nat → Nat → Memory
  | 0, _ => m
  | n + 1, v => (m.write a (BitVec.ofNat 8 v)).writeLE (a + 1) n (v / 256)

/-- Each of the bytes is written or not, one after the other, as the free value `Config.freeWritten` decides
(20_memory.md R96, R106, U7, U20; logs 13 and 14). -/
def Memory.writeSome (m : Memory) (k : Nat) : List (Addr × Byte) → Memory
  | [] => m
  | c :: t => Memory.writeSome (if Config.freeWritten k t.length then m.write c.1.toNat c.2 else m) k t

/-- Each of the addresses holds some byte of which nothing is known (20_memory.md R96, U20). -/
def Memory.blur (m : Memory) (k : Nat) : List Nat → Memory
  | [] => m
  | a :: t => (Memory.blur m k t).write a (Config.freeByte k a)

/-- Each of the addresses holds its old or its new byte (20_memory.md R96, U20). -/
def Memory.merge (old new : Memory) (k : Nat) : List Nat → Memory
  | [] => new
  | a :: t => (Memory.merge old new k t).write a (if Config.freeKeeps k a then old.read a else new.read a)

end Sys2Proof.Machine
end

