-- ==== Sys2Proof/Machine/Transcend.lean ====
section
/-! DEFINITION. The operand ranges of the five transcendental functions, which of their results are exact
or tiny, and their results (spec/44_transcendental.md R380 to R387; logs 33 to 35). The functions are
parameters (R382); what the spec says of a result is imposed on the parameter's value. -/

namespace Sys2Proof.Machine

/-- A positive normal number. -/
def positiveNormal (r : TReal) : Bool := classOf r = .normal && !signOf r

/-- "the result is a normal number or zero" (R382). -/
def normalOrZero (r : TReal) : TReal :=
  match classOf r with
  | .normal | .zero => r
  | _ => zeroOf (signOf r)

/-- The largest temporary real below pi/4. -/
def quarterPi : TReal := 0x3FFEC90FDAA22168C234#80

/-- The significand at exponent -16382 and below which underflow is masked: a denormal, a zero or the
rounding corner 2^63 of 40_numerics.md R203, positive. -/
def tinyValue (r : TReal) : TReal :=
  pack false 0 (if sigOf r ≤ 2 ^ 63 then sigOf r else sigOf r % 2 ^ 63)

/-- What a function leaves: in range with its exceptions, or out of range (R380). -/
inductive FunctionResult where
  /-- a result, its tag by content -/
  | result (after : ExcSet) (value : TReal)
  /-- `undefined(80)` with an undefined tag; P as given -/
  | undefined (p : Bool)
deriving DecidableEq, Repr, Inhabited

/-- A positive tiny result with U unmasked: 24,576 is added to its exponent (40_numerics.md R203). `e` is the
exponent of the exact result, from which the parameter's approximation may be one off (R382; log 33). -/
def adjustedTiny (e : Int) (r : TReal) : TReal :=
  let biased := (e + 24576 + 16383).toNat
  if positiveNormal r && expOf r ≤ biased + 1 && biased ≤ expOf r + 1 then r
  else pack false biased (2 ^ 63 + sigOf r % 2 ^ 63)

/-- A tiny result, whose exponent is `e`: U and P; masked, denormalized; unmasked, with the adjusted
exponent (R384, R385; 40_numerics.md R203, 60_exceptions.md R480). -/
def tinyResult (cw : Control) (e : Int) (r : TReal) : FunctionResult :=
  .result { ExcSet.none with u := true, p := true } (if cw.masks.u then tinyValue r else adjustedTiny e r)

/-- FPTAN's operand is in range: `0 < Theta < pi/4` (R383). -/
def ptanInRange (t : TReal) : Bool := positiveNormal t && t.toNat ≤ quarterPi.toNat

/-- FPATAN's operands are in range: `0 < Y < X < infinity` (R384). -/
def patanInRange (y x : TReal) : Bool := positiveNormal y && positiveNormal x && y.toNat < x.toNat

/-- The arctangent of `Y / X` is below 2^-16382, which it is exactly when `Y ≤ X × 2^-16382` (R384; log 33). -/
def patanTiny (y x : TReal) : Bool :=
  let d : Int := (expOf y : Int) - expOf x
  d < -16382 || (d = -16382 && sigOf y ≤ sigOf x)

/-- The exponent of a tiny arctangent of `Y / X`, which is less than the ratio, by less than one part in 2^64
(R384; log 33). -/
def patanExponent (y x : TReal) : Int := (expOf y : Int) - expOf x - if sigOf y ≤ sigOf x then 1 else 0

/-- FPATAN's result lies in `0 < Theta < pi/4` (R384). -/
def patanBound (r : TReal) : TReal :=
  if positiveNormal r && r.toNat ≤ quarterPi.toNat then r else quarterPi

/-- FPATAN (R384). -/
def patanOf (cw : Control) (y x : TReal) : FunctionResult :=
  let r := Config.fPatan y x cw.rc
  if !patanInRange y x then .undefined false
  else if patanTiny y x then tinyResult cw (patanExponent y x) r
  else .result .onlyP (patanBound r)

/-- F2XM1 of a positive operand is below 2^-16382, and its exponent -16383: `X < 2^-16382 / ln 2` (R385; log 33). -/
def f2xm1Tiny (x : TReal) : Bool := expOf x = 1 && sigOf x ≤ 0xB8AA3B295C17F0BB

/-- F2XM1, `0 ≤ X ≤ 0.5` (R385). +0.0 gives +0.0; -0.0 a zero whose sign is not stated. -/
def f2xm1Of (cw : Control) (x : TReal) : FunctionResult :=
  let r := Config.f2xm1 x cw.rc
  if classOf x = .zero then .result .none (zeroOf (signOf x && signOf r))
  else if positiveNormal x && x.toNat ≤ 0x3FFE8000000000000000 then
    if f2xm1Tiny x then tinyResult cw (-16383) r else .result .onlyP (normalOrZero r)
  else .undefined false

/-- A zero or a normal number: the range `-infinity < Y < +infinity` of a valid operand (R386, R380). -/
def finiteOperand (y : TReal) : Bool := classOf y = .zero || classOf y = .normal

/-- FYL2X's operands are in range: `0 < X < infinity`, Y finite (R386). -/
def yl2xInRange (y x : TReal) : Bool := positiveNormal x && finiteOperand y

/-- Bounds of a positive number: it lies in `lo × 2^e` to `hi × 2^e`. -/
structure Bounds where
  lo : Nat
  hi : Nat
  e : Int
deriving DecidableEq, Repr, Inhabited

/-- `n` binary digits of `log2 m` for `m` in units of 2^-320 with `1 ≤ m < 2`: a squaring gives the next
digit. Rounding every square down gives a lower bound, rounding up an upper one. -/
def logDigits (up : Bool) (m : Nat) : Nat → Nat
  | 0 => up.toNat
  | n + 1 =>
    let s := (m * m + (if up then 2 ^ 320 - 1 else 0)) / 2 ^ 320
    if 2 ^ 321 ≤ s then 2 ^ n + logDigits up ((s + up.toNat) / 2) n else logDigits up s n

/-- Bounds of `|k + log2 m|`, `m` as above, `k` an integer that is not such that the sum is 0. -/
def logBounds (k : Int) (m : Nat) : Bounds :=
  let lo : Int := k * 2 ^ 256 + logDigits false m 256
  let hi : Int := k * 2 ^ 256 + (if m = 2 ^ 320 then 0 else logDigits true m 256 : Nat)
  if k < 0 then ⟨(-hi).toNat, (-lo).toNat, -256⟩ else ⟨lo.toNat, hi.toNat, -256⟩

/-- Whether a result is inside the range of the normal temporary reals, so far as bounds decide it. -/
inductive RangeVerdict where
  | inside | outside | unknown
deriving DecidableEq, Repr, Inhabited

/-- The verdict on `|Y| × l`, `l` within bounds: below 2^-16382, from 2^16384 up, from 2^-16382 to the largest
finite number, or not decided. -/
def rangeVerdict (y : TReal) (l : Bounds) : RangeVerdict :=
  let e := (valOf y).e + l.e
  let lo := sigOf y * l.lo
  let hi := sigOf y * l.hi
  let top : Int := Nat.log2 hi + e
  if top < -16382 ∨ (Nat.log2 lo : Int) + e ≥ 16384 then .outside
  else if (Nat.log2 lo : Int) + e ≥ -16382 ∧
      (top < 16383 ∨ (top = 16383 ∧ hi ≤ (2 ^ 64 - 1) <<< (Nat.log2 hi - 63))) then .inside
  else .unknown

/-- `Y × log2 X` may leave the range for some X: for every `X ≠ 1`, `|log2 X|` is at least 2^-64 and
below 2^14. -/
def yl2xMayLeave (y : TReal) : Bool :=
  let e : Int := (expOf y : Int) - 16383
  e + 15 > 16383 || e - 64 < -16382

/-- Whether `Y × log2 X` is inside the range (R386; log 35). -/
def yl2xVerdict (y x : TReal) : RangeVerdict :=
  if yl2xMayLeave y then rangeVerdict y (logBounds ((expOf x : Int) - 16383) (sigOf x * 2 ^ 257))
  else .inside

/-- `X = 2^k`, and the value delivered is `Y × k`, so that the result is exact (R386; log 33). -/
def yl2xExact (y x r : TReal) : Bool :=
  let vy := valOf y
  let vr := valOf r
  let k : Int := (expOf x : Int) - 16383
  let e := min vy.e vr.e
  sigOf x = 2 ^ 63 && vy.scaled e * k = vr.scaled e

/-- A result leaves the range; where the bounds do not decide it, the parameter does (R386, U3; log 35). -/
def leavesRange (v : RangeVerdict) (y x : TReal) : Bool :=
  match v with
  | .inside => false
  | .outside => true
  | .unknown => Config.logLeavesRange y x

/-- FYL2X (R386). -/
def yl2xOf (cw : Control) (y x : TReal) : FunctionResult :=
  let r := Config.fYl2x y x cw.rc
  if !yl2xInRange y x then .undefined false
  else if classOf y = .zero ∨ x = oneReal then .result .none (zeroOf (signOf r))
  else if leavesRange (yl2xVerdict y x) y x then .undefined (Config.logRangePrecision y x)
  else
    let v := normalOrZero r
    .result { ExcSet.none with p := !yl2xExact y x v } v

/-- The largest temporary real below `1 - sqrt(2)/2`. -/
def oneMinusHalfRoot2 : TReal := 0x3FFD95F619980C4336F7#80

/-- FYL2XP1's operands are in range: `0 < |X| < 1 - sqrt(2)/2`, Y finite (R387). -/
def yl2xp1InRange (y x : TReal) : Bool :=
  classOf x = .normal && (withSign false x).toNat ≤ oneMinusHalfRoot2.toNat && finiteOperand y

/-- `log2 e` in units of 2^-256, rounded down. -/
def log2e : Nat := 0x171547652b82fe1777d0ffda0d23a7d11d6aef551bad2b4b1164a2cd9a342648f

/-- Bounds of `|log2(X + 1)|` for `0 < |X| < 0.3`. From 2^-64 up, `X + 1` is exact in units of 2^-320. Below, it
is `|X| × log2 e × (1 - X/2 + X²/3)` to less than one part in 2^193; `a` is `|X|` and the factor is in units of
2^-256. -/
def logP1Bounds (x : TReal) : Bounds :=
  let e : Int := (expOf x : Int) - 16383
  if -64 ≤ e then
    let d := sigOf x * 2 ^ (257 + e).toNat
    if signOf x then logBounds (-1) (2 * (2 ^ 320 - d)) else logBounds 0 (2 ^ 320 + d)
  else
    let a := (sigOf x <<< (193 + e).toNat) >>> (-193 - e).toNat
    let square := a * a / (3 * 2 ^ 256)
    let factor := if signOf x then 2 ^ 256 + a / 2 + square else 2 ^ 256 - a / 2 + square
    ⟨sigOf x * log2e * (factor - 2 ^ 63), sigOf x * (log2e + 1) * (factor + 2 ^ 63), e - 63 - 256 - 256⟩

/-- Whether `Y × log2(X + 1)` is inside the range (R387; log 35): `|log2(X + 1)|` is more than `|X|`. -/
def yl2xp1Verdict (y x : TReal) : RangeVerdict :=
  if (expOf y : Int) - 16383 + ((expOf x : Int) - 16383) < -16382 then rangeVerdict y (logP1Bounds x)
  else .inside

/-- FYL2XP1 (R387). -/
def yl2xp1Of (cw : Control) (y x : TReal) : FunctionResult :=
  let r := Config.fYl2xp1 y x cw.rc
  if !yl2xp1InRange y x then .undefined false
  else if classOf y = .zero then .result .none (zeroOf (signOf r))
  else if leavesRange (yl2xp1Verdict y x) y x then .undefined (Config.logRangePrecision y x)
  else .result .onlyP (normalOrZero r)

end Sys2Proof.Machine
end

