-- ==== Sys2Proof/Machine/Operands.lean ====
section
/-! DEFINITION. The operands of an instruction: the register stack (spec/00_scope.md R8, R9;
spec/10_state.md R24) and the memory operand with its effective address (spec/30_encoding.md R124). -/

namespace Sys2Proof.Machine

/-- The 80 bits of physical register `p`. -/
def State.reg (s : State) (p : BitVec 3) : TReal := s.regs.get p.toFin

/-- The tag of physical register `p`. -/
def State.tag (s : State) (p : BitVec 3) : Tag := s.tags.get p.toFin

/-- Write a physical register and its tag. -/
def State.setReg (s : State) (p : BitVec 3) (v : TReal) (t : Tag) : State :=
  { s with regs := s.regs.set p.toFin v p.isLt, tags := s.tags.set p.toFin t p.isLt }

/-- Write a tag alone. -/
def State.setTag (s : State) (p : BitVec 3) (t : Tag) : State :=
  { s with tags := s.tags.set p.toFin t p.isLt }

/-- Move the stack top pointer. -/
def State.setTop (s : State) (t : BitVec 3) : State := { s with sw := { s.sw with top := t } }

/-- `phys(i)` (R8). -/
def State.phys (s : State) (i : BitVec 3) : BitVec 3 := s.sw.top + i

/-- The bits of `ST(i)` (R8). -/
def State.st (s : State) (i : BitVec 3) : TReal := s.reg (s.phys i)

/-- The tag of `ST(i)`. -/
def State.stTag (s : State) (i : BitVec 3) : Tag := s.tag (s.phys i)

/-- `empty(i)` (R8). -/
def State.isEmpty (s : State) (i : BitVec 3) : Bool := s.stTag i = .empty

/-- The register a push would take is not empty: stack overflow (60_exceptions.md R487). -/
def State.pushFull (s : State) : Bool := s.tag (s.sw.top - 1) ≠ .empty

/-- `ST(i)` as an operand of a numeric instruction. A tag that disagrees with the content, which only
FLDENV and FRSTOR can leave, makes it a free value (10_state.md R46, U11; log 36). -/
def State.num (s : State) (i : BitVec 3) : TReal :=
  if s.stTag i = tagOf (s.st i) then s.st i else Config.mistagged (s.st i) (s.stTag i).toBits

/-- `ST(i) <- v` with its tag (R8). -/
def State.writeSt (s : State) (i : BitVec 3) (v : TReal) : State := s.setReg (s.phys i) v (tagOf v)

/-- `push(v)` with a tag (R9). -/
def State.pushTagged (s : State) (v : TReal) (t : Tag) : State :=
  (s.setTop (s.sw.top - 1)).setReg (s.sw.top - 1) v t

/-- `push(v)` (R9). -/
def State.push (s : State) (v : TReal) : State := s.pushTagged v (tagOf v)

/-- `pop()` (R9). -/
def State.pop (s : State) : State := (s.setTag s.sw.top .empty).setTop (s.sw.top + 1)

/-- Pop where the instruction does. -/
def State.popIf (s : State) (b : Bool) : State := if b then s.pop else s

/-! ### Memory operands -/

/-- The base or index registers of a row, summed (R124). -/
def Base.offset (b : Base) (r : CpuRegs) : Word :=
  match b with
  | .bxSi => r.bx + r.si | .bxDi => r.bx + r.di | .bpSi => r.bp + r.si | .bpDi => r.bp + r.di
  | .si => r.si | .di => r.di | .bp => r.bp | .bx => r.bx

/-- The row uses BP, so that its default segment is SS (R124). -/
def Base.usesBp : Base → Bool
  | .bpSi | .bpDi | .bp => true
  | .bxSi | .bxDi | .si | .di | .bx => false

/-- The 16-bit offset of a memory operand (R124). -/
def MemOp.offset (m : MemOp) (r : CpuRegs) : Word :=
  match m with
  | .noDisp b => Base.offset b r
  | .direct off => off
  | .disp8 b d => Base.offset b r + d.signExtend 16
  | .disp16 b d => Base.offset b r + d

/-- The default segment of a memory operand (R124). -/
def MemOp.defaultSeg : MemOp → SegReg
  | .direct _ => .ds
  | .noDisp b | .disp8 b _ | .disp16 b _ => if Base.usesBp b then .ss else .ds

/-- The content of a segment register. -/
def CpuRegs.seg (r : CpuRegs) : SegReg → Word
  | .es => r.es | .cs => r.cs | .ss => r.ss | .ds => r.ds

/-- `ea = (seg * 16 + off) mod 2^20` (R124). -/
def Port.ea (p : Port) (m : MemOp) : Addr :=
  (p.cpu.seg (p.seg.getD (MemOp.defaultSeg m))).setWidth 20 * 16 + (MemOp.offset m p.cpu).setWidth 20

/-- The address of the current instruction's memory operand. -/
def State.ea (s : State) (m : MemOp) : Addr := s.port.ea m

/-- The addresses of `n` bytes from `a` up. -/
def addresses (a n : Nat) : List Nat := List.range' a n

/-- The address is in the allocated memory (20_memory.md R94, D3; log 6). -/
def State.allocated (s : State) (a : Nat) : Bool := s.conf.ram.any fun r => r.has a

/-- Why an operand of `n` bytes is refused, if it is: it does not end at or below FFFFFH, or a byte of it
is outside the allocated memory (20_memory.md R89, D4; log 8). -/
def State.operandStop (s : State) (m : MemOp) (n : Nat) : Option Fault :=
  if (s.ea m).toNat + n ≤ 2 ^ 20 then
    ((addresses (s.ea m).toNat n).find? fun x => !s.allocated x).map Fault.unallocated
  else some (.operandPastTop (s.ea m))

/-- An instruction with a memory operand of `n` bytes: its effect `f`, given the operand's address. -/
def State.withOperand (s : State) (m : MemOp) (n : Nat) (f : Nat → State) :
    Host.Outcome State Fault Refusal :=
  match s.operandStop m n with
  | some r => .fault r
  | none => .next (f (s.ea m).toNat)

/-- The segment-override byte of an event, as a segment (30_encoding.md R124). -/
def Event.seg (e : Event) : Option SegReg :=
  match e.bytes with
  | [] => none
  | b :: _ => segOfPrefix b

/-- An event's bytes from the escape byte on (30_encoding.md R121, R127). -/
def Event.escape (e : Event) : List Byte :=
  match e.bytes with
  | [] => []
  | b :: rest => if (segOfPrefix b).isSome then rest else b :: rest

/-- How many bytes the instruction of an event has, with its segment-override byte (R127). -/
def Event.length (e : Event) : Nat :=
  match decodeFull e.bytes with
  | .ok (_, _, left) => e.bytes.length - left.length
  | .error _ => e.bytes.length

/-- Where the instruction of an event lies, from the WAIT in front of it (30_encoding.md R126, R127). -/
def Event.span (e : Event) : Span :=
  let front := e.wait.toNat + (e.bytes.length - e.escape.length)
  ⟨e.ia - BitVec.ofNat 20 front, e.wait.toNat + e.length⟩

/-- The CPU executes a WAIT with this event, in front of its instruction or as FWAIT (R121, R126). -/
def Event.fences (e : Event) : Bool := e.wait || e.bytes.head? = some 0x9B

/-- The address holds a byte of the program: of an instruction that the CPU has presented or is going to
present, or one that the setting `program` names (20_memory.md R104, D6; log 44). -/
def State.isProgram (s : State) (a : Nat) : Bool :=
  s.conf.program.any (fun r => r.has a) || s.code.any (fun r => r.has a) ||
  s.inbox.any fun x => match x with
    | .insn e => e.span.has a
    | .neuDone | .takeInterrupt | .cpuRead _ | .cpuWrite _ _ | .reset => false

/-- An instruction with a destination of `n` bytes in memory; `writes` says that it stores there. A store
into the program is refused (20_memory.md R104, 70_reset_and_hazards.md R542, D6; log 44). -/
def State.withDestination (s : State) (m : MemOp) (n : Nat) (writes : Bool) (f : Nat → State) :
    Host.Outcome State Fault Refusal :=
  match s.operandStop m n with
  | some r => .fault r
  | none =>
    match if writes then (addresses (s.ea m).toNat n).find? s.isProgram else none with
    | some x => .refused (.storeIntoProgram x)
    | none => .next (f (s.ea m).toNat)

/-- `MemRead(a, n)` (R10). -/
def State.load (s : State) (a n : Nat) : Nat := s.mem.readLE a n

/-- `MemWrite(a, n, v)` (R10). -/
def State.store (s : State) (a n v : Nat) : State := { s with mem := s.mem.writeLE a n v }

end Sys2Proof.Machine
end

