-- ==== Sys2Proof/Machine/Ops.lean ====
section
/-! DEFINITION. The shared operations: taking an exception, clearing one and coming back from one
(spec/60_exceptions.md R477 to R482), starting and concluding an instruction, and the common procedures
of the families (41 R261 to R269, 42 R291, 43 R350, 44 R380, 45 R400, 46 R420 to R434). -/

namespace Sys2Proof.Machine

/-! ### The interrupt state -/

/-- An exception flag whose mask is clear makes the NDP stop and hold BUSY: always, or under `release`
only while `IEM` is 0 (60_exceptions.md R482, D10; log 17). -/
def Settings.held (c : Settings) (iem unm : Bool) : Bool :=
  match c.busyWhenIem with
  | .hold => unm
  | .release _ => unm && !iem

/-- It sets IR: always, or under `release` with `IEM` = 1 only where that setting says so (R482, D10). -/
def Settings.request (c : Settings) (iem unm : Bool) : Bool :=
  match c.busyWhenIem with
  | .hold => unm
  | .release ir => unm && (!iem || ir)

/-- `react()` (60_exceptions.md R482): IR, B and `pending` from the flags and masks (D9, D10; log 17). -/
def State.react (s : State) : State :=
  let unm := s.sw.ex.unmasked s.cw.masks
  let held := s.conf.held s.cw.iem unm
  { s with
    pending := held
    sw := { s.sw with ir := s.conf.request s.cw.iem unm, busy := s.neu.isSome || held } }

/-- FDISI and FENI set `IEM`, which changes the INT line and nothing else (46_processor_control.md R421,
R422); under `release` BUSY and IR depend on `IEM`, so that the NDP reacts (D10; log 17). -/
def State.setIem (s : State) (b : Bool) : State :=
  match s.conf.busyWhenIem with
  | .hold => { s with cw := { s.cw with iem := b } }
  | .release _ => State.react { s with cw := { s.cw with iem := b } }

/-- The BUSY line (10_state.md R64). -/
def State.busyLine (s : State) : Bool := s.neu.isSome || s.pending

/-- The INT line (10_state.md R65). -/
def State.intLine (s : State) : Bool := s.sw.ir && !s.cw.iem

/-- The request that the CPU sees: an active INT line arrives as the interrupt type `VEC_EXC`
(60_exceptions.md R483, D2). -/
def State.interruptRequest (s : State) : Option Byte := if s.intLine then some s.conf.vecExc else none

/-- Taking exceptions, the one operation for all of them (60_exceptions.md R477, R485, R482): their
flags are set and stay, the condition code becomes `code`, and the NDP reacts: with an unmasked one it
stops with `pending`, IR and BUSY. The exception pointers hold the instruction since its start. A free
value may have been drawn: the counter advances (log 7). -/
def State.conclude (s : State) (ex : ExcSet) (code : BitVec 4) : State :=
  State.react { s with
    sw := { s.sw.withCode code with ex := s.sw.ex.union ex }
    draws := s.draws + 1 }

/-- Clearing exceptions, the return from one (46_processor_control.md R428; 60_exceptions.md R492):
flags, IR and `pending` go, and B unless the NEU runs. -/
def State.clearExceptions (s : State) : State :=
  State.react { s with sw := { s.sw with ex := .none } }

/-! ### How an instruction starts and ends: reserved opcodes and the exception pointers -/

/-- The instruction of an 11-bit opcode, with the memory operand of the reserved opcode that stands for
it, if it has one (30_encoding.md R129). -/
def aliasOf (op : BitVec 11) (m : Option MemOp) : Instr :=
  match m with
  | some m => decodeMemForm (op.extractLsb' 8 3) (op.extractLsb' 3 3) m
  | none => decodeRegForm (op.extractLsb' 8 3) (op.extractLsb' 3 3) (op.extractLsb' 0 3)

/-- The opcode is assigned to no instruction (R147). -/
def isReserved (i : Instr) : Bool :=
  match i with
  | .reservedM _ _ _ | .reservedR _ _ _ => true
  | _ => false

/-- The opcode of the instruction that an opcode stands for: itself, or, where `reserved_opcode` makes a
reserved one an alias, that instruction's with the same addressing (R147, D14; log 20). -/
def Settings.standsFor (c : Settings) (op : BitVec 11) : BitVec 11 :=
  match c.reserved with
  | .refuse | .nop => op
  | .aliased pairs =>
    let memory : Bool := op.extractLsb' 6 2 ≠ 3
    if isReserved (aliasOf op (if memory then some (.direct 0) else none)) then
      match pairs.find? fun k => k.1 = op with
      | some k =>
        k.2.extractLsb' 8 3 ++ op.extractLsb' 6 2 ++ k.2.extractLsb' 3 3 ++
          (if memory then op else k.2).extractLsb' 0 3
      | none => op
    else op

/-- The instruction the CPU presents is in `ptr_update_set` (10_state.md R51, D13; log 18). -/
def State.recordsPointers (s : State) : Bool :=
  !s.conf.ptrKeep.any fun k => s.conf.standsFor s.port.op &&& k.1 = k.2

/-- An instruction starts: it records the exception pointers, if it is in the set (R51, D13; log 18). -/
def State.begin (s : State) (ea : Option Nat) : State :=
  { s with
    iptr := if s.recordsPointers then s.port.ia else s.iptr
    opc := if s.recordsPointers then s.port.op else s.opc
    dptr := match ea with
      | some a => if s.recordsPointers then BitVec.ofNat 20 a else s.dptr
      | none => s.dptr }

/-- The end of an instruction that leaves the condition code as it is (D11) and raises nothing. -/
def State.endQuiet (s : State) : State := s.react

/-- The condition code where it is undefined (10_state.md R33, D11; log 19). -/
def State.freeCode (s : State) : BitVec 4 := Config.freeCode s.draws

/-! ### Instructions with results in registers -/

/-- An instruction with a result in registers that defines the condition code: `before` found in the
operands, `after` in the result. An unmasked one of `before` abandons it, so that nothing is written and
the code is free (60_exceptions.md R479); else `effect` writes the results, also with an unmasked one of
`after` (R480). -/
def State.attemptCode (s : State) (before after : ExcSet) (code : BitVec 4) (effect : State → State) : State :=
  let found := before.screen s.cw.masks
  if found.2 then s.conclude found.1 s.freeCode
  else (effect s).conclude (found.1.union after) code

/-- The same, without a defined condition code. -/
def State.attempt (s : State) (before after : ExcSet) (effect : State → State) : State :=
  s.attemptCode before after s.freeCode effect

/-- A converting store: unmasked O or U stops it too, before P is evaluated; unmasked P does not
(60_exceptions.md R481). -/
def State.attemptStore (s : State) (before after : ExcSet) (effect : State → State) : State :=
  let found := before.screen s.cw.masks
  let ou := { after with p := false }
  if found.2 then s.conclude found.1 s.freeCode
  else if ou.unmasked s.cw.masks then s.conclude (found.1.union ou) s.freeCode
  else (effect s).conclude (found.1.union after) s.freeCode

/-! ### Data transfer and constants -/

/-- Push a value, with the stack check of R487; `d` says that its conversion met a denormal
(41_data_transfer.md R261, R265, R268; 45_constant.md R400). -/
def State.loadTagged (s : State) (d : Bool) (v : TReal) (t : Tag) : State :=
  s.attempt { ExcSet.invalidIf s.pushFull with d := d } .none fun s =>
    if s.pushFull then s.push indefinite else s.pushTagged v t

/-- Push a value with the tag of its content. -/
def State.loadValue (s : State) (d : Bool) (v : TReal) : State := s.loadTagged d v (tagOf v)

/-- FLD of a short or long real in memory (R261). -/
def State.loadReal (s : State) (f : RealFmt) (a : Nat) : State :=
  let c := cvtReal f (s.load a f.bytes)
  s.loadValue c.d c.value

/-- FLD of a temporary real in memory: the bits; a denormal signals D (R261, 40_numerics.md R216). -/
def State.loadTReal (s : State) (a : Nat) : State :=
  let v : TReal := BitVec.ofNat 80 (s.load a 10)
  s.loadValue (classOf v = .denormal) v

/-- FILD (R265). -/
def State.loadInt (s : State) (f : IntFmt) (a : Nat) : State :=
  s.loadValue false (cvtInt (f.toInt (s.load a f.bytes)))

/-- FBLD (R268); invalid digits push a free value with a free tag (U1; log 37). -/
def State.loadBcd (s : State) (a : Nat) : State :=
  let w := s.load a 10
  if bcdValid w 18 then s.loadValue false (cvtBcd w)
  else s.loadTagged false (Config.freeReal s.draws) (Tag.nonEmpty (Config.freeTag s.draws))

/-- FLD ST(i) (R261): read before TOP moves; an empty source is the indefinite. -/
def State.loadSt (s : State) (i : BitVec 3) : State :=
  let v := if s.isEmpty i then indefinite else s.st i
  s.attempt (.invalidIf (s.isEmpty i || s.pushFull)) .none fun s =>
    s.push (if s.pushFull then indefinite else v)

/-- FST and FSTP into `ST(i)` (R262, R263): bits and tag. -/
def State.storeSt (s : State) (i : BitVec 3) (pop : Bool) : State :=
  s.attempt (.invalidIf (s.isEmpty 0)) .none fun s =>
    (if s.isEmpty 0 then s.writeSt i indefinite
     else s.setReg (s.phys i) (s.st 0) (s.stTag 0)).popIf pop

/-- Store converted bits in `n` bytes, then pop where the instruction does (R262 to R269). -/
def State.storeBits (s : State) (a n : Nat) (x : Stored) (pop : Bool) : State :=
  s.attemptStore x.before x.after fun s => (s.store a n x.bits).popIf pop

/-- An unmasked exception suppresses the store (60_exceptions.md R479, R481). -/
def Stored.suppressed (x : Stored) (masks : ExcSet) : Bool :=
  (x.before.screen masks).2 || ExcSet.unmasked { x.after with p := false } masks

/-- A storing instruction of the NEU with a destination of `n` bytes. -/
def State.storeOperand (s : State) (m : MemOp) (n : Nat) (x : Stored) (pop : Bool) :
    Host.Outcome State Fault Refusal :=
  s.withDestination m n (!x.suppressed s.cw.masks) fun a => (s.begin (some a)).storeBits a n x pop

/-- What FST and FSTP store in a short or long real (R262, R263). -/
def State.storedReal (s : State) (f : RealFmt) : Stored :=
  if s.isEmpty 0 then ⟨.onlyI, .none, f.indefinite⟩ else toReal s.cw f (s.num 0)

/-- What FSTP stores in a temporary real: the bits (R263, 40_numerics.md R216). -/
def State.storedTReal (s : State) : Stored :=
  if s.isEmpty 0 then ⟨.onlyI, .none, indefinite.toNat⟩ else ⟨.none, .none, (s.st 0).toNat⟩

/-- What FIST and FISTP store (R266, R267). -/
def State.storedInt (s : State) (f : IntFmt) : Stored :=
  if s.isEmpty 0 then ⟨.onlyI, .none, f.indefinite⟩ else toInt s.cw f (s.num 0)

/-- What FBSTP stores (R269). -/
def State.storedBcd (s : State) : Stored :=
  if s.isEmpty 0 then ⟨.onlyI, .none, bcdIndefinite s.draws⟩ else toBcd s.cw s.draws (s.num 0)

/-- FXCH (R264): empty registers become the indefinite, then bits and tags are exchanged. -/
def State.exchange (s : State) (i : BitVec 3) : State :=
  s.attempt (.invalidIf (s.isEmpty 0 || s.isEmpty i)) .none fun s =>
    let a := if s.isEmpty 0 then s.writeSt 0 indefinite else s
    let b := if a.isEmpty i then a.writeSt i indefinite else a
    (b.setReg (b.phys 0) (b.st i) (b.stTag i)).setReg (b.phys i) (b.st 0) (b.stTag 0)

/-! ### Arithmetic -/

/-- A source operand: nothing where the register is empty; `d` where a conversion met a denormal. -/
structure Source where
  value : Option TReal
  d : Bool
deriving DecidableEq, Repr, Inhabited

/-- `ST(i)` as a source. -/
def State.sourceSt (s : State) (i : BitVec 3) : Source :=
  ⟨if s.isEmpty i then none else some (s.num i), false⟩

/-- A memory real as a source (40_numerics.md R212). -/
def State.sourceReal (s : State) (f : RealFmt) (a : Nat) : Source :=
  let c := cvtReal f (s.load a f.bytes)
  ⟨some c.value, c.d⟩

/-- A memory integer as a source (40_numerics.md R210). -/
def State.sourceInt (s : State) (f : IntFmt) (a : Nat) : Source :=
  ⟨some (cvtInt (f.toInt (s.load a f.bytes))), false⟩

/-- The exceptions of a result, D added where the source's conversion met a denormal. -/
def Computed.withD (c : Computed) (d : Bool) : Computed :=
  { c with before := { c.before with d := c.before.d || d } }

/-- What `basic` computes (42_arithmetic.md R291): the indefinite where an operand is empty (R486). -/
def State.basicResult (s : State) (list : ExcSet) (op : BasicOp) (rev : Bool) (d : BitVec 3)
    (src : Source) : Computed :=
  let c : Computed := match src.value with
    | none => .invalid indefinite
    | some v =>
      if s.isEmpty d then .invalid indefinite else arith list s.cw s.draws op rev (s.num d) v
  c.withD src.d

/-- Write a result to `ST(d)`, then pop where the instruction does. -/
def State.writeResult (s : State) (c : Computed) (d : BitVec 3) (pop : Bool) : State :=
  s.attempt c.before c.after fun s => (s.writeSt d c.value).popIf pop

/-- `basic(op, rev, d, src, pop)` (R291). -/
def State.basic (s : State) (list : ExcSet) (op : BasicOp) (rev : Bool) (d : BitVec 3) (src : Source)
    (pop : Bool) : State :=
  s.writeResult (s.basicResult list op rev d src) d pop

/-- Table S-19's list of the real additions, subtractions and multiplications: I, D, O, U, P. -/
def listReal : ExcSet := excList true true false true true true
/-- Table S-19's list of their integer forms: I, D, O, P. -/
def listInt : ExcSet := excList true true false true false true
/-- Table S-19's list of the divisions: I, D, Z, O, U, P. -/
def listDiv : ExcSet := ExcSet.all

/-- An instruction on `ST` alone, or on `ST` and `ST(1)`, with its result in `ST`: the indefinite
where an operand is empty (R486). -/
def State.unary (s : State) (empty : Bool) (c : Computed) : State :=
  s.writeResult (if empty then .invalid indefinite else c) 0 false

/-- FPREM (R315): with the condition code it defines. -/
def State.premainder (s : State) : State :=
  if s.isEmpty 0 || s.isEmpty 1 then s.writeResult (.invalid indefinite) 0 false
  else
    let r := premOf s.cw s.draws (s.num 0) (s.num 1)
    let q := r.quotient
    s.attemptCode r.result.before r.result.after
      (q.extractLsb' 1 1 ++ BitVec.ofBool r.partialResult ++ q.extractLsb' 0 1 ++ q.extractLsb' 2 1)
      fun s => s.writeSt 0 r.result.value

/-- FXTRACT (R317; log 41). -/
def State.extract (s : State) : State :=
  if s.isEmpty 0 then
    s.attempt .onlyI .none fun s =>
      if s.pushFull then s.writeSt 0 indefinite else (s.writeSt 0 indefinite).push indefinite
  else if s.pushFull then
    s.attempt .onlyI .none fun s => (s.writeSt 0 indefinite).push indefinite
  else
    let x := xtractOf s.cw (s.num 0)
    s.attempt x.before .none fun s => (s.writeSt 0 x.exponent).push x.significand

/-- FABS and FCHS: a new sign bit; the tag stays (R318, R319). -/
def State.setSign (s : State) (neg : Bool) : State :=
  s.attempt (.invalidIf (s.isEmpty 0)) .none fun s =>
    if s.isEmpty 0 then s.writeSt 0 indefinite
    else s.setReg (s.phys 0) (withSign neg (s.st 0)) (s.stTag 0)

/-! ### Comparison -/

/-- Pop `n` times. -/
def State.popN (s : State) : Nat → State
  | 0 => s
  | n + 1 => s.pop.popN n

/-- The condition code of a comparison: C3 and C0; C2 and C1 are free (43_comparison.md R350, U17). -/
def State.compareCode (s : State) (o : Order) : BitVec 4 :=
  BitVec.ofBool o.c3 ++ s.freeCode.extractLsb' 1 2 ++ BitVec.ofBool o.c0

/-- The order of `ST` and a source, and the exceptions found (R350). A denormal operand signals D, and of a
pattern of `pseudo_special` it is open whether it does (40_numerics.md R229; log 24). Where D is unmasked the
comparison ends at it, so that only an operand that is never ordered can signal I (R227; log 23). -/
def State.compareOutcome (s : State) (src : Source) : Order × ExcSet :=
  match src.value with
  | none => (.unordered, .onlyI)
  | some b =>
    if s.isEmpty 0 then (.unordered, { ExcSet.onlyI with d := src.d })
    else
      let a := s.num 0
      let o := compareReal s.cw a b
      let extended := (classOf a).extended || (classOf b).extended
      let d := src.d || (classOf a).denormalOperand || (classOf b).denormalOperand ||
        (extended && Config.compareSignalsD a b s.cw.toBits)
      let invalid := if d && !s.cw.masks.d then neverOrdered s.cw a b else decide (o = .unordered)
      (o, { ExcSet.invalidIf invalid with d })

/-- `compare(src, pops)` (R350). -/
def State.compare (s : State) (src : Source) (pops : Nat) : State :=
  let r := s.compareOutcome src
  s.attemptCode r.2 .none (s.compareCode r.1) fun s => s.popN pops

/-- FXAM's condition code (43_comparison.md R358, U5). -/
def State.examCode (s : State) : BitVec 4 :=
  if s.isEmpty 0 then 1#1 ++ s.freeCode.extractLsb' 1 2 ++ 1#1
  else
    let c := examClass (s.st 0)
    c.extractLsb' 2 1 ++ c.extractLsb' 1 1 ++ BitVec.ofBool (signOf (s.st 0)) ++ c.extractLsb' 0 1

/-! ### Transcendental functions -/

/-- Write what a function left to `ST(d)`, then pop where the instruction does (44_transcendental.md R380). -/
def State.writeFunction (s : State) (r : FunctionResult) (d : BitVec 3) (pop : Bool) : State :=
  match r with
  | .result after v => s.writeResult ⟨.none, after, v⟩ d pop
  | .undefined p =>
    s.attempt .none { ExcSet.none with p := p } fun s =>
      (s.setReg (s.phys d) (Config.freeReal s.draws) (Tag.nonEmpty (Config.freeTag s.draws))).popIf pop

/-- A function of `ST(1)` and `ST` that pops (R384, R386, R387; empty operands R381). -/
def State.function2 (s : State) (f : Control → TReal → TReal → FunctionResult) : State :=
  if s.isEmpty 0 || s.isEmpty 1 then s.writeResult (.invalid indefinite) 1 true
  else s.writeFunction (f s.cw (s.num 1) (s.num 0)) 1 true

/-- A function of `ST` (R385; an empty operand R381). -/
def State.function1 (s : State) (f : Control → TReal → FunctionResult) : State :=
  if s.isEmpty 0 then s.writeResult (.invalid indefinite) 0 false
  else s.writeFunction (f s.cw (s.num 0)) 0 false

/-- FPTAN (R383; log 41 for the stack arms). -/
def State.tangent (s : State) : State :=
  if s.isEmpty 0 || s.pushFull then
    s.attempt .onlyI .none fun s => (s.writeSt 0 indefinite).push indefinite
  else if ptanInRange (s.num 0) then
    let y := normalOrZero (Config.fPtanY (s.num 0) s.cw.rc)
    let x := normalOrZero (Config.fPtanX (s.num 0) s.cw.rc)
    s.attempt .none .onlyP fun s => (s.writeSt 0 y).push x
  else
    s.attempt .none .none fun s =>
      (s.setReg (s.phys 0) (Config.freeReal s.draws) (Tag.nonEmpty (Config.freeTag s.draws))).pushTagged
        (Config.freeReal2 s.draws) (Tag.nonEmpty (Config.freeTag2 s.draws))

/-! ### Processor control -/

/-- The initialization of FINIT, FSAVE and RESET (10_state.md R66; 46_processor_control.md R420). -/
def State.initialize (s : State) : State :=
  { s with
    cw := .init
    tags := Vector.replicate 8 .empty
    sw := Status.withCode ⟨false, false, 0, false, false, false, false, .none⟩ s.freeCode
    neu := none
    pending := false
    queued := none
    draws := s.draws + 1 }

/-- Load the control word; its reserved bits are loaded or free (46_processor_control.md R423, 10_state.md R47;
log 16). -/
def State.loadControl (s : State) (a : Nat) : State :=
  { s with
    cw := Control.load s.conf.cwReserved (BitVec.ofNat 16 (s.load a 2)) (Config.freeControlBits s.draws)
    draws := s.draws + 1 }

/-- The status word as it is stored, bit 6 free (10_state.md R36, U9; log 15). -/
def State.statusWord (s : State) : Word := s.sw.toBits (Config.freeStatusBit s.draws)

/-- The environment image: seven words (10_state.md R53). -/
def State.envImage (s : State) : BitVec 112 :=
  s.dptr.extractLsb' 16 4 ++ (0 : BitVec 12) ++ s.dptr.extractLsb' 0 16 ++
  s.iptr.extractLsb' 16 4 ++ (0 : BitVec 1) ++ s.opc ++ s.iptr.extractLsb' 0 16 ++
  tagWord s.tags ++ s.statusWord ++ s.cw.toBits

/-- Store the environment (R53). -/
def State.storeEnv (s : State) (a : Nat) : State :=
  { s with mem := s.mem.writeLE a 14 s.envImage.toNat, draws := s.draws + 1 }

/-- Load the environment (46_processor_control.md R432): IR and B of the image are not kept (R32, R35),
the reserved control bits are loaded or free (R47; log 16); `react()` comes last. -/
def State.loadEnv (s : State) (a : Nat) : State :=
  let word (k : Nat) : Word := BitVec.ofNat 16 (s.load (a + 2 * k) 2)
  { s with
    cw := Control.load s.conf.cwReserved (word 0) (Config.freeControlBits s.draws)
    sw := Status.ofBits (word 1)
    tags := tagsOfWord (word 2)
    iptr := (word 4).extractLsb' 12 4 ++ word 3
    opc := (word 4).extractLsb' 0 11
    dptr := (word 6).extractLsb' 12 4 ++ word 5
    draws := s.draws + 1 }

/-- Store `ST(0)` to `ST(n-1)`, 10 bytes each, from `a` up (10_state.md R54). -/
def State.storeStack (s : State) (a : Nat) : Nat → State
  | 0 => s
  | n + 1 => (s.storeStack a n).store (a + 10 * n) 10 (s.st (BitVec.ofNat 3 n)).toNat

/-- Load `ST(0)` to `ST(n-1)`; their tags are left as they are (46_processor_control.md R434). -/
def State.loadStack (s : State) (a : Nat) : Nat → State
  | 0 => s
  | n + 1 =>
    let t := s.loadStack a n
    let p := t.phys (BitVec.ofNat 3 n)
    t.setReg p (BitVec.ofNat 80 (s.load (a + 10 * n) 10)) (t.tag p)

end Sys2Proof.Machine
end

