-- ==== Sys2Proof/Machine/Arithmetic.lean ====
section
/-! DEFINITION. The arithmetic instructions (spec/42_arithmetic.md R290 to R320). -/

namespace Sys2Proof.Machine

/-- FADD: add, short real source (R292). -/
def execFaddM32 (m : MemOp) (s : State) : Host.Outcome State Fault Refusal :=
  s.withOperand m 4 fun a => (s.begin (some a)).basic listReal .add false 0 (s.sourceReal .short a) false

/-- FADD: add, long real source (R292). -/
def execFaddM64 (m : MemOp) (s : State) : Host.Outcome State Fault Refusal :=
  s.withOperand m 8 fun a => (s.begin (some a)).basic listReal .add false 0 (s.sourceReal .long a) false

/-- FADD: add, `ST,ST(i)` (R292). -/
def execFaddSt (i : BitVec 3) (s : State) : Host.Outcome State Fault Refusal :=
  .next ((s.begin none).basic listReal .add false 0 (s.sourceSt i) false)

/-- FADD: add, `ST(i),ST` (R292). -/
def execFaddSti (i : BitVec 3) (s : State) : Host.Outcome State Fault Refusal :=
  .next ((s.begin none).basic listReal .add false i (s.sourceSt 0) false)

/-- FADDP: add and pop, `ST(i),ST` (R293). -/
def execFaddp (i : BitVec 3) (s : State) : Host.Outcome State Fault Refusal :=
  .next ((s.begin none).basic listReal .add false i (s.sourceSt 0) true)

/-- FIADD: add, word integer source (R294). -/
def execFiaddM16 (m : MemOp) (s : State) : Host.Outcome State Fault Refusal :=
  s.withOperand m 2 fun a => (s.begin (some a)).basic listInt .add false 0 (s.sourceInt .word a) false

/-- FIADD: add, short integer source (R294). -/
def execFiaddM32 (m : MemOp) (s : State) : Host.Outcome State Fault Refusal :=
  s.withOperand m 4 fun a => (s.begin (some a)).basic listInt .add false 0 (s.sourceInt .short a) false

/-- FSUB: subtract, short real source (R295). -/
def execFsubM32 (m : MemOp) (s : State) : Host.Outcome State Fault Refusal :=
  s.withOperand m 4 fun a => (s.begin (some a)).basic listReal .sub false 0 (s.sourceReal .short a) false

/-- FSUB: subtract, long real source (R295). -/
def execFsubM64 (m : MemOp) (s : State) : Host.Outcome State Fault Refusal :=
  s.withOperand m 8 fun a => (s.begin (some a)).basic listReal .sub false 0 (s.sourceReal .long a) false

/-- FSUB: subtract, `ST,ST(i)` (R295). -/
def execFsubSt (i : BitVec 3) (s : State) : Host.Outcome State Fault Refusal :=
  .next ((s.begin none).basic listReal .sub false 0 (s.sourceSt i) false)

/-- FSUB: subtract, `ST(i),ST` (R295). -/
def execFsubSti (i : BitVec 3) (s : State) : Host.Outcome State Fault Refusal :=
  .next ((s.begin none).basic listReal .sub false i (s.sourceSt 0) false)

/-- FSUBP: subtract and pop, `ST(i),ST` (R296). -/
def execFsubp (i : BitVec 3) (s : State) : Host.Outcome State Fault Refusal :=
  .next ((s.begin none).basic listReal .sub false i (s.sourceSt 0) true)

/-- FISUB: subtract, word integer source (R297). -/
def execFisubM16 (m : MemOp) (s : State) : Host.Outcome State Fault Refusal :=
  s.withOperand m 2 fun a => (s.begin (some a)).basic listInt .sub false 0 (s.sourceInt .word a) false

/-- FISUB: subtract, short integer source (R297). -/
def execFisubM32 (m : MemOp) (s : State) : Host.Outcome State Fault Refusal :=
  s.withOperand m 4 fun a => (s.begin (some a)).basic listInt .sub false 0 (s.sourceInt .short a) false

/-- FSUBR: subtract reversed, short real source (R298). -/
def execFsubrM32 (m : MemOp) (s : State) : Host.Outcome State Fault Refusal :=
  s.withOperand m 4 fun a => (s.begin (some a)).basic listReal .sub true 0 (s.sourceReal .short a) false

/-- FSUBR: subtract reversed, long real source (R298). -/
def execFsubrM64 (m : MemOp) (s : State) : Host.Outcome State Fault Refusal :=
  s.withOperand m 8 fun a => (s.begin (some a)).basic listReal .sub true 0 (s.sourceReal .long a) false

/-- FSUBR: subtract reversed, `ST,ST(i)` (R298). -/
def execFsubrSt (i : BitVec 3) (s : State) : Host.Outcome State Fault Refusal :=
  .next ((s.begin none).basic listReal .sub true 0 (s.sourceSt i) false)

/-- FSUBR: subtract reversed, `ST(i),ST` (R298). -/
def execFsubrSti (i : BitVec 3) (s : State) : Host.Outcome State Fault Refusal :=
  .next ((s.begin none).basic listReal .sub true i (s.sourceSt 0) false)

/-- FSUBRP: subtract reversed and pop, `ST(i),ST` (R299). -/
def execFsubrp (i : BitVec 3) (s : State) : Host.Outcome State Fault Refusal :=
  .next ((s.begin none).basic listReal .sub true i (s.sourceSt 0) true)

/-- FISUBR: subtract reversed, word integer source (R300). -/
def execFisubrM16 (m : MemOp) (s : State) : Host.Outcome State Fault Refusal :=
  s.withOperand m 2 fun a => (s.begin (some a)).basic listInt .sub true 0 (s.sourceInt .word a) false

/-- FISUBR: subtract reversed, short integer source (R300). -/
def execFisubrM32 (m : MemOp) (s : State) : Host.Outcome State Fault Refusal :=
  s.withOperand m 4 fun a => (s.begin (some a)).basic listInt .sub true 0 (s.sourceInt .short a) false

/-- FMUL: multiply, short real source (R301). -/
def execFmulM32 (m : MemOp) (s : State) : Host.Outcome State Fault Refusal :=
  s.withOperand m 4 fun a => (s.begin (some a)).basic listReal .mul false 0 (s.sourceReal .short a) false

/-- FMUL: multiply, long real source (R301). -/
def execFmulM64 (m : MemOp) (s : State) : Host.Outcome State Fault Refusal :=
  s.withOperand m 8 fun a => (s.begin (some a)).basic listReal .mul false 0 (s.sourceReal .long a) false

/-- FMUL: multiply, `ST,ST(i)` (R301). -/
def execFmulSt (i : BitVec 3) (s : State) : Host.Outcome State Fault Refusal :=
  .next ((s.begin none).basic listReal .mul false 0 (s.sourceSt i) false)

/-- FMUL: multiply, `ST(i),ST` (R301). -/
def execFmulSti (i : BitVec 3) (s : State) : Host.Outcome State Fault Refusal :=
  .next ((s.begin none).basic listReal .mul false i (s.sourceSt 0) false)

/-- FMULP: multiply and pop, `ST(i),ST` (R302). -/
def execFmulp (i : BitVec 3) (s : State) : Host.Outcome State Fault Refusal :=
  .next ((s.begin none).basic listReal .mul false i (s.sourceSt 0) true)

/-- FIMUL: multiply, word integer source (R303). -/
def execFimulM16 (m : MemOp) (s : State) : Host.Outcome State Fault Refusal :=
  s.withOperand m 2 fun a => (s.begin (some a)).basic listInt .mul false 0 (s.sourceInt .word a) false

/-- FIMUL: multiply, short integer source (R303). -/
def execFimulM32 (m : MemOp) (s : State) : Host.Outcome State Fault Refusal :=
  s.withOperand m 4 fun a => (s.begin (some a)).basic listInt .mul false 0 (s.sourceInt .short a) false

/-- FDIV: divide, short real source (R304). -/
def execFdivM32 (m : MemOp) (s : State) : Host.Outcome State Fault Refusal :=
  s.withOperand m 4 fun a => (s.begin (some a)).basic listDiv .div false 0 (s.sourceReal .short a) false

/-- FDIV: divide, long real source (R304). -/
def execFdivM64 (m : MemOp) (s : State) : Host.Outcome State Fault Refusal :=
  s.withOperand m 8 fun a => (s.begin (some a)).basic listDiv .div false 0 (s.sourceReal .long a) false

/-- FDIV: divide, `ST,ST(i)` (R304). -/
def execFdivSt (i : BitVec 3) (s : State) : Host.Outcome State Fault Refusal :=
  .next ((s.begin none).basic listDiv .div false 0 (s.sourceSt i) false)

/-- FDIV: divide, `ST(i),ST` (R304). -/
def execFdivSti (i : BitVec 3) (s : State) : Host.Outcome State Fault Refusal :=
  .next ((s.begin none).basic listDiv .div false i (s.sourceSt 0) false)

/-- FDIVP: divide and pop, `ST(i),ST` (R305). -/
def execFdivp (i : BitVec 3) (s : State) : Host.Outcome State Fault Refusal :=
  .next ((s.begin none).basic listDiv .div false i (s.sourceSt 0) true)

/-- FIDIV: divide, word integer source (R306). -/
def execFidivM16 (m : MemOp) (s : State) : Host.Outcome State Fault Refusal :=
  s.withOperand m 2 fun a => (s.begin (some a)).basic listDiv .div false 0 (s.sourceInt .word a) false

/-- FIDIV: divide, short integer source (R306). -/
def execFidivM32 (m : MemOp) (s : State) : Host.Outcome State Fault Refusal :=
  s.withOperand m 4 fun a => (s.begin (some a)).basic listDiv .div false 0 (s.sourceInt .short a) false

/-- FDIVR: divide reversed, short real source (R307). -/
def execFdivrM32 (m : MemOp) (s : State) : Host.Outcome State Fault Refusal :=
  s.withOperand m 4 fun a => (s.begin (some a)).basic listDiv .div true 0 (s.sourceReal .short a) false

/-- FDIVR: divide reversed, long real source (R307). -/
def execFdivrM64 (m : MemOp) (s : State) : Host.Outcome State Fault Refusal :=
  s.withOperand m 8 fun a => (s.begin (some a)).basic listDiv .div true 0 (s.sourceReal .long a) false

/-- FDIVR: divide reversed, `ST,ST(i)` (R307). -/
def execFdivrSt (i : BitVec 3) (s : State) : Host.Outcome State Fault Refusal :=
  .next ((s.begin none).basic listDiv .div true 0 (s.sourceSt i) false)

/-- FDIVR: divide reversed, `ST(i),ST` (R307). -/
def execFdivrSti (i : BitVec 3) (s : State) : Host.Outcome State Fault Refusal :=
  .next ((s.begin none).basic listDiv .div true i (s.sourceSt 0) false)

/-- FDIVRP: divide reversed and pop, `ST(i),ST` (R308). -/
def execFdivrp (i : BitVec 3) (s : State) : Host.Outcome State Fault Refusal :=
  .next ((s.begin none).basic listDiv .div true i (s.sourceSt 0) true)

/-- FIDIVR: divide reversed, word integer source (R309). -/
def execFidivrM16 (m : MemOp) (s : State) : Host.Outcome State Fault Refusal :=
  s.withOperand m 2 fun a => (s.begin (some a)).basic listDiv .div true 0 (s.sourceInt .word a) false

/-- FIDIVR: divide reversed, short integer source (R309). -/
def execFidivrM32 (m : MemOp) (s : State) : Host.Outcome State Fault Refusal :=
  s.withOperand m 4 fun a => (s.begin (some a)).basic listDiv .div true 0 (s.sourceInt .short a) false

/-- FSQRT: square root (R311). -/
def execFsqrt (s : State) : Host.Outcome State Fault Refusal :=
  .next ((s.begin none).unary (s.isEmpty 0) (sqrtOf s.cw s.draws (s.num 0)))

/-- FSCALE: scale (R312). -/
def execFscale (s : State) : Host.Outcome State Fault Refusal :=
  .next ((s.begin none).unary (s.isEmpty 0 || s.isEmpty 1) (scaleOf s.cw s.draws (s.num 0) (s.num 1)))

/-- FPREM: partial remainder (R315). -/
def execFprem (s : State) : Host.Outcome State Fault Refusal :=
  .next (s.begin none).premainder

/-- FRNDINT: round to integer (R316). -/
def execFrndint (s : State) : Host.Outcome State Fault Refusal :=
  .next ((s.begin none).unary (s.isEmpty 0) (rndintOf s.cw (s.num 0)))

/-- FXTRACT: extract exponent and significand (R317). -/
def execFxtract (s : State) : Host.Outcome State Fault Refusal :=
  .next (s.begin none).extract

/-- FABS: absolute value (R318). -/
def execFabs (s : State) : Host.Outcome State Fault Refusal :=
  .next ((s.begin none).setSign false)

/-- FCHS: change sign (R319). -/
def execFchs (s : State) : Host.Outcome State Fault Refusal :=
  .next ((s.begin none).setSign (!signOf (s.st 0)))

end Sys2Proof.Machine
end

