-- ==== Sys2Proof/Machine/Comparison.lean ====
section
/-! DEFINITION. The comparison instructions (spec/43_comparison.md R350 to R358). -/

namespace Sys2Proof.Machine

/-- FCOM: compare with a short real (R351). -/
def execFcomM32 (m : MemOp) (s : State) : Host.Outcome State Fault Refusal :=
  s.withOperand m 4 fun a => (s.begin (some a)).compare (s.sourceReal .short a) 0

/-- FCOM: compare with a long real (R351). -/
def execFcomM64 (m : MemOp) (s : State) : Host.Outcome State Fault Refusal :=
  s.withOperand m 8 fun a => (s.begin (some a)).compare (s.sourceReal .long a) 0

/-- FCOM: compare with `ST(i)` (R351). -/
def execFcomSti (i : BitVec 3) (s : State) : Host.Outcome State Fault Refusal :=
  .next ((s.begin none).compare (s.sourceSt i) 0)

/-- FCOMP: compare with a short real and pop (R352). -/
def execFcompM32 (m : MemOp) (s : State) : Host.Outcome State Fault Refusal :=
  s.withOperand m 4 fun a => (s.begin (some a)).compare (s.sourceReal .short a) 1

/-- FCOMP: compare with a long real and pop (R352). -/
def execFcompM64 (m : MemOp) (s : State) : Host.Outcome State Fault Refusal :=
  s.withOperand m 8 fun a => (s.begin (some a)).compare (s.sourceReal .long a) 1

/-- FCOMP: compare with `ST(i)` and pop (R352). -/
def execFcompSti (i : BitVec 3) (s : State) : Host.Outcome State Fault Refusal :=
  .next ((s.begin none).compare (s.sourceSt i) 1)

/-- FCOMPP: compare with `ST(1)` and pop twice (R353). -/
def execFcompp (s : State) : Host.Outcome State Fault Refusal :=
  .next ((s.begin none).compare (s.sourceSt 1) 2)

/-- FICOM: compare with a word integer (R354). -/
def execFicomM16 (m : MemOp) (s : State) : Host.Outcome State Fault Refusal :=
  s.withOperand m 2 fun a => (s.begin (some a)).compare (s.sourceInt .word a) 0

/-- FICOM: compare with a short integer (R354). -/
def execFicomM32 (m : MemOp) (s : State) : Host.Outcome State Fault Refusal :=
  s.withOperand m 4 fun a => (s.begin (some a)).compare (s.sourceInt .short a) 0

/-- FICOMP: compare with a word integer and pop (R355). -/
def execFicompM16 (m : MemOp) (s : State) : Host.Outcome State Fault Refusal :=
  s.withOperand m 2 fun a => (s.begin (some a)).compare (s.sourceInt .word a) 1

/-- FICOMP: compare with a short integer and pop (R355). -/
def execFicompM32 (m : MemOp) (s : State) : Host.Outcome State Fault Refusal :=
  s.withOperand m 4 fun a => (s.begin (some a)).compare (s.sourceInt .short a) 1

/-- FTST: test against zero (R357). -/
def execFtst (s : State) : Host.Outcome State Fault Refusal :=
  .next ((s.begin none).compare ⟨some (zeroOf false), false⟩ 0)

/-- FXAM: examine (R358). -/
def execFxam (s : State) : Host.Outcome State Fault Refusal :=
  .next ((s.begin none).conclude .none s.examCode)

end Sys2Proof.Machine
end

