-- ==== Sys2Proof/Machine/Constant.lean ====
section
/-! DEFINITION. The constant instructions (spec/45_constant.md R400 to R407; log 21 for the five irrational
constants). -/

namespace Sys2Proof.Machine

/-- Each irrational constant is within one unit in the last place of its exact value, so one of the two
64-bit neighbours of it (45_constant.md R400, D21; log 21). -/
def Settings.wf (c : Settings) : Bool :=
  (c.cPi = 0x4000C90FDAA22168C234 || c.cPi = 0x4000C90FDAA22168C235) &&
  (c.cL2t = 0x4000D49A784BCD1B8AFE || c.cL2t = 0x4000D49A784BCD1B8AFF) &&
  (c.cL2e = 0x3FFFB8AA3B295C17F0BB || c.cL2e = 0x3FFFB8AA3B295C17F0BC) &&
  (c.cLg2 = 0x3FFD9A209A84FBCFF798 || c.cLg2 = 0x3FFD9A209A84FBCFF799) &&
  (c.cLn2 = 0x3FFEB17217F7D1CF79AB || c.cLn2 = 0x3FFEB17217F7D1CF79AC)

/-- FLDZ: load +0.0 (R401). -/
def execFldz (s : State) : Host.Outcome State Fault Refusal :=
  .next ((s.begin none).loadValue false (zeroOf false))

/-- FLD1: load +1.0 (R402). -/
def execFld1 (s : State) : Host.Outcome State Fault Refusal :=
  .next ((s.begin none).loadValue false oneReal)

/-- FLDPI: load pi (R403). -/
def execFldpi (s : State) : Host.Outcome State Fault Refusal :=
  .next ((s.begin none).loadValue false s.conf.cPi)

/-- FLDL2T: load log2 10 (R404). -/
def execFldl2t (s : State) : Host.Outcome State Fault Refusal :=
  .next ((s.begin none).loadValue false s.conf.cL2t)

/-- FLDL2E: load log2 e (R405). -/
def execFldl2e (s : State) : Host.Outcome State Fault Refusal :=
  .next ((s.begin none).loadValue false s.conf.cL2e)

/-- FLDLG2: load log10 2 (R406). -/
def execFldlg2 (s : State) : Host.Outcome State Fault Refusal :=
  .next ((s.begin none).loadValue false s.conf.cLg2)

/-- FLDLN2: load loge 2 (R407). -/
def execFldln2 (s : State) : Host.Outcome State Fault Refusal :=
  .next ((s.begin none).loadValue false s.conf.cLn2)

end Sys2Proof.Machine
end

