-- ==== Sys2Proof/Machine/Control.lean ====
section
/-! DEFINITION. The processor control instructions, the CPU's WAIT, and the reserved opcodes
(spec/46_processor_control.md R418 to R442; spec/30_encoding.md R147). Which of them record the exception
pointers is the setting `ptrKeep`; those that store the pointers record them first (log 18). -/

namespace Sys2Proof.Machine

/-- FINIT: initialize processor (R420). -/
def execFinit (s : State) : Host.Outcome State Fault Refusal :=
  .next (s.begin none).initialize

/-- FDISI: disable interrupts (R421). -/
def execFdisi (s : State) : Host.Outcome State Fault Refusal :=
  .next ((s.begin none).setIem true)

/-- FENI: enable interrupts (R422). -/
def execFeni (s : State) : Host.Outcome State Fault Refusal :=
  .next ((s.begin none).setIem false)

/-- FLDCW: load control word (R423). -/
def execFldcw (m : MemOp) (s : State) : Host.Outcome State Fault Refusal :=
  s.withOperand m 2 fun a => ((s.begin (some a)).loadControl a).react

/-- FSTCW: store control word (R424). -/
def execFstcw (m : MemOp) (s : State) : Host.Outcome State Fault Refusal :=
  s.withDestination m 2 true fun a => (s.begin (some a)).store a 2 s.cw.toBits.toNat

/-- FSTSW: store status word (R427). -/
def execFstsw (m : MemOp) (s : State) : Host.Outcome State Fault Refusal :=
  s.withDestination m 2 true fun a =>
    { s.begin (some a) with mem := s.mem.writeLE a 2 s.statusWord.toNat, draws := s.draws + 1 }

/-- FCLEX: clear exceptions (R428). -/
def execFclex (s : State) : Host.Outcome State Fault Refusal :=
  .next (s.begin none).clearExceptions

/-- FSTENV: store environment (R430). -/
def execFstenv (m : MemOp) (s : State) : Host.Outcome State Fault Refusal :=
  s.withDestination m 14 true fun a =>
    let t := (s.begin (some a)).storeEnv a
    State.react { t with cw := { t.cw with masks := .all } }

/-- FLDENV: load environment (R432); the exception pointers come from the image. -/
def execFldenv (m : MemOp) (s : State) : Host.Outcome State Fault Refusal :=
  s.withOperand m 14 fun a => (s.loadEnv a).react

/-- FSAVE: save state (R433). -/
def execFsave (m : MemOp) (s : State) : Host.Outcome State Fault Refusal :=
  s.withDestination m 94 true fun a => (((s.begin (some a)).storeEnv a).storeStack (a + 14) 8).initialize

/-- FRSTOR: restore state (R434); the exception pointers come from the image. -/
def execFrstor (m : MemOp) (s : State) : Host.Outcome State Fault Refusal :=
  s.withOperand m 94 fun a => ((s.loadEnv a).loadStack (a + 14) 8).react

/-- FINCSTP: increment stack pointer (R435). -/
def execFincstp (s : State) : Host.Outcome State Fault Refusal :=
  .next ((s.begin none).setTop (s.sw.top + 1)).endQuiet

/-- FDECSTP: decrement stack pointer (R436). -/
def execFdecstp (s : State) : Host.Outcome State Fault Refusal :=
  .next ((s.begin none).setTop (s.sw.top - 1)).endQuiet

/-- FFREE: free register (R437). -/
def execFfree (i : BitVec 3) (s : State) : Host.Outcome State Fault Refusal :=
  .next ((s.begin none).setTag (s.phys i) .empty).endQuiet

/-- FNOP: no operation (R439). -/
def execFnop (s : State) : Host.Outcome State Fault Refusal :=
  .next (s.begin none).endQuiet

/-- FWAIT: the CPU's WAIT goes on only when BUSY is inactive, and changes no NDP state (R441). While the
NEU runs, the step completes it first (R471); an exception that is pending ends the run (R490; log 10). -/
def execFwait (s : State) : Host.Outcome State Fault Refusal :=
  if s.pending then .fault .endlessWait else .next s

/-- A reserved opcode with a memory operand: no operation (R147, D14; log 20). Where the setting
`reserved` refuses it or makes it an alias, the machine does not come here (`Settings.resolve`). -/
def execReservedM (_opA _opB : BitVec 3) (_m : MemOp) (s : State) : Host.Outcome State Fault Refusal :=
  .next s

/-- A reserved opcode of the register format: no operation (R147, D14; log 20). Where the setting
`reserved` refuses it or makes it an alias, the machine does not come here (`Settings.resolve`). -/
def execReservedR (_opA _opB _i : BitVec 3) (s : State) : Host.Outcome State Fault Refusal :=
  .next s

end Sys2Proof.Machine
end

