-- ==== Sys2Proof/Machine/Transcendental.lean ====
section
/-! DEFINITION. The transcendental instructions (spec/44_transcendental.md R380 to R388). -/

namespace Sys2Proof.Machine

/-- FPTAN: partial tangent (R383). -/
def execFptan (s : State) : Host.Outcome State Fault Refusal :=
  .next (s.begin none).tangent

/-- FPATAN: partial arctangent (R384). -/
def execFpatan (s : State) : Host.Outcome State Fault Refusal :=
  .next ((s.begin none).function2 patanOf)

/-- F2XM1: 2^X - 1 (R385). -/
def execF2xm1 (s : State) : Host.Outcome State Fault Refusal :=
  .next ((s.begin none).function1 f2xm1Of)

/-- FYL2X: Y log2 X (R386). -/
def execFyl2x (s : State) : Host.Outcome State Fault Refusal :=
  .next ((s.begin none).function2 yl2xOf)

/-- FYL2XP1: Y log2 (X+1) (R387). -/
def execFyl2xp1 (s : State) : Host.Outcome State Fault Refusal :=
  .next ((s.begin none).function2 yl2xp1Of)

end Sys2Proof.Machine
end

