-- ==== Sys2Proof/Machine/Transfer.lean ====
section
/-! DEFINITION. The data transfer instructions (spec/41_data_transfer.md R260 to R269). -/

namespace Sys2Proof.Machine

/-- FLD: load short real (R261). -/
def execFldM32 (m : MemOp) (s : State) : Host.Outcome State Fault Refusal :=
  s.withOperand m 4 fun a => (s.begin (some a)).loadReal .short a

/-- FLD: load long real (R261). -/
def execFldM64 (m : MemOp) (s : State) : Host.Outcome State Fault Refusal :=
  s.withOperand m 8 fun a => (s.begin (some a)).loadReal .long a

/-- FLD: load temporary real (R261). -/
def execFldM80 (m : MemOp) (s : State) : Host.Outcome State Fault Refusal :=
  s.withOperand m 10 fun a => (s.begin (some a)).loadTReal a

/-- FLD: load `ST(i)` (R261). -/
def execFldSti (i : BitVec 3) (s : State) : Host.Outcome State Fault Refusal :=
  .next ((s.begin none).loadSt i)

/-- FST: store short real (R262). -/
def execFstM32 (m : MemOp) (s : State) : Host.Outcome State Fault Refusal :=
  s.storeOperand m 4 (s.storedReal .short) false

/-- FST: store long real (R262). -/
def execFstM64 (m : MemOp) (s : State) : Host.Outcome State Fault Refusal :=
  s.storeOperand m 8 (s.storedReal .long) false

/-- FST: store into `ST(i)` (R262). -/
def execFstSti (i : BitVec 3) (s : State) : Host.Outcome State Fault Refusal :=
  .next ((s.begin none).storeSt i false)

/-- FSTP: store short real and pop (R263). -/
def execFstpM32 (m : MemOp) (s : State) : Host.Outcome State Fault Refusal :=
  s.storeOperand m 4 (s.storedReal .short) true

/-- FSTP: store long real and pop (R263). -/
def execFstpM64 (m : MemOp) (s : State) : Host.Outcome State Fault Refusal :=
  s.storeOperand m 8 (s.storedReal .long) true

/-- FSTP: store temporary real and pop (R263). -/
def execFstpM80 (m : MemOp) (s : State) : Host.Outcome State Fault Refusal :=
  s.storeOperand m 10 s.storedTReal true

/-- FSTP: store into `ST(i)` and pop (R263). -/
def execFstpSti (i : BitVec 3) (s : State) : Host.Outcome State Fault Refusal :=
  .next ((s.begin none).storeSt i true)

/-- FXCH: exchange `ST` and `ST(i)` (R264). -/
def execFxch (i : BitVec 3) (s : State) : Host.Outcome State Fault Refusal :=
  .next ((s.begin none).exchange i)

/-- FILD: load word integer (R265). -/
def execFildM16 (m : MemOp) (s : State) : Host.Outcome State Fault Refusal :=
  s.withOperand m 2 fun a => (s.begin (some a)).loadInt .word a

/-- FILD: load short integer (R265). -/
def execFildM32 (m : MemOp) (s : State) : Host.Outcome State Fault Refusal :=
  s.withOperand m 4 fun a => (s.begin (some a)).loadInt .short a

/-- FILD: load long integer (R265). -/
def execFildM64 (m : MemOp) (s : State) : Host.Outcome State Fault Refusal :=
  s.withOperand m 8 fun a => (s.begin (some a)).loadInt .long a

/-- FIST: store word integer (R266). -/
def execFistM16 (m : MemOp) (s : State) : Host.Outcome State Fault Refusal :=
  s.storeOperand m 2 (s.storedInt .word) false

/-- FIST: store short integer (R266). -/
def execFistM32 (m : MemOp) (s : State) : Host.Outcome State Fault Refusal :=
  s.storeOperand m 4 (s.storedInt .short) false

/-- FISTP: store word integer and pop (R267). -/
def execFistpM16 (m : MemOp) (s : State) : Host.Outcome State Fault Refusal :=
  s.storeOperand m 2 (s.storedInt .word) true

/-- FISTP: store short integer and pop (R267). -/
def execFistpM32 (m : MemOp) (s : State) : Host.Outcome State Fault Refusal :=
  s.storeOperand m 4 (s.storedInt .short) true

/-- FISTP: store long integer and pop (R267). -/
def execFistpM64 (m : MemOp) (s : State) : Host.Outcome State Fault Refusal :=
  s.storeOperand m 8 (s.storedInt .long) true

/-- FBLD: load packed decimal (R268). -/
def execFbld (m : MemOp) (s : State) : Host.Outcome State Fault Refusal :=
  s.withOperand m 10 fun a => (s.begin (some a)).loadBcd a

/-- FBSTP: store packed decimal and pop (R269). -/
def execFbstp (m : MemOp) (s : State) : Host.Outcome State Fault Refusal :=
  s.storeOperand m 10 s.storedBcd true

end Sys2Proof.Machine
end

