-- ==== Sys2Proof/Machine/Dispatch.lean ====
section
/-! DEFINITION. One arm per instruction: a direct call of its meaning. -/

namespace Sys2Proof.Machine

def exec (i : Instr) (s : State) : Host.Outcome State Fault Refusal :=
  match i with
  | .fldM32 m => Sys2Proof.Machine.execFldM32 m s
  | .fldM64 m => Sys2Proof.Machine.execFldM64 m s
  | .fldM80 m => Sys2Proof.Machine.execFldM80 m s
  | .fldSti k => Sys2Proof.Machine.execFldSti k s
  | .fstM32 m => Sys2Proof.Machine.execFstM32 m s
  | .fstM64 m => Sys2Proof.Machine.execFstM64 m s
  | .fstSti k => Sys2Proof.Machine.execFstSti k s
  | .fstpM32 m => Sys2Proof.Machine.execFstpM32 m s
  | .fstpM64 m => Sys2Proof.Machine.execFstpM64 m s
  | .fstpM80 m => Sys2Proof.Machine.execFstpM80 m s
  | .fstpSti k => Sys2Proof.Machine.execFstpSti k s
  | .fxch k => Sys2Proof.Machine.execFxch k s
  | .fildM16 m => Sys2Proof.Machine.execFildM16 m s
  | .fildM32 m => Sys2Proof.Machine.execFildM32 m s
  | .fildM64 m => Sys2Proof.Machine.execFildM64 m s
  | .fistM16 m => Sys2Proof.Machine.execFistM16 m s
  | .fistM32 m => Sys2Proof.Machine.execFistM32 m s
  | .fistpM16 m => Sys2Proof.Machine.execFistpM16 m s
  | .fistpM32 m => Sys2Proof.Machine.execFistpM32 m s
  | .fistpM64 m => Sys2Proof.Machine.execFistpM64 m s
  | .fbld m => Sys2Proof.Machine.execFbld m s
  | .fbstp m => Sys2Proof.Machine.execFbstp m s
  | .faddM32 m => Sys2Proof.Machine.execFaddM32 m s
  | .faddM64 m => Sys2Proof.Machine.execFaddM64 m s
  | .faddSt k => Sys2Proof.Machine.execFaddSt k s
  | .faddSti k => Sys2Proof.Machine.execFaddSti k s
  | .faddp k => Sys2Proof.Machine.execFaddp k s
  | .fiaddM16 m => Sys2Proof.Machine.execFiaddM16 m s
  | .fiaddM32 m => Sys2Proof.Machine.execFiaddM32 m s
  | .fsubM32 m => Sys2Proof.Machine.execFsubM32 m s
  | .fsubM64 m => Sys2Proof.Machine.execFsubM64 m s
  | .fsubSt k => Sys2Proof.Machine.execFsubSt k s
  | .fsubSti k => Sys2Proof.Machine.execFsubSti k s
  | .fsubp k => Sys2Proof.Machine.execFsubp k s
  | .fisubM16 m => Sys2Proof.Machine.execFisubM16 m s
  | .fisubM32 m => Sys2Proof.Machine.execFisubM32 m s
  | .fsubrM32 m => Sys2Proof.Machine.execFsubrM32 m s
  | .fsubrM64 m => Sys2Proof.Machine.execFsubrM64 m s
  | .fsubrSt k => Sys2Proof.Machine.execFsubrSt k s
  | .fsubrSti k => Sys2Proof.Machine.execFsubrSti k s
  | .fsubrp k => Sys2Proof.Machine.execFsubrp k s
  | .fisubrM16 m => Sys2Proof.Machine.execFisubrM16 m s
  | .fisubrM32 m => Sys2Proof.Machine.execFisubrM32 m s
  | .fmulM32 m => Sys2Proof.Machine.execFmulM32 m s
  | .fmulM64 m => Sys2Proof.Machine.execFmulM64 m s
  | .fmulSt k => Sys2Proof.Machine.execFmulSt k s
  | .fmulSti k => Sys2Proof.Machine.execFmulSti k s
  | .fmulp k => Sys2Proof.Machine.execFmulp k s
  | .fimulM16 m => Sys2Proof.Machine.execFimulM16 m s
  | .fimulM32 m => Sys2Proof.Machine.execFimulM32 m s
  | .fdivM32 m => Sys2Proof.Machine.execFdivM32 m s
  | .fdivM64 m => Sys2Proof.Machine.execFdivM64 m s
  | .fdivSt k => Sys2Proof.Machine.execFdivSt k s
  | .fdivSti k => Sys2Proof.Machine.execFdivSti k s
  | .fdivp k => Sys2Proof.Machine.execFdivp k s
  | .fidivM16 m => Sys2Proof.Machine.execFidivM16 m s
  | .fidivM32 m => Sys2Proof.Machine.execFidivM32 m s
  | .fdivrM32 m => Sys2Proof.Machine.execFdivrM32 m s
  | .fdivrM64 m => Sys2Proof.Machine.execFdivrM64 m s
  | .fdivrSt k => Sys2Proof.Machine.execFdivrSt k s
  | .fdivrSti k => Sys2Proof.Machine.execFdivrSti k s
  | .fdivrp k => Sys2Proof.Machine.execFdivrp k s
  | .fidivrM16 m => Sys2Proof.Machine.execFidivrM16 m s
  | .fidivrM32 m => Sys2Proof.Machine.execFidivrM32 m s
  | .fsqrt => Sys2Proof.Machine.execFsqrt s
  | .fscale => Sys2Proof.Machine.execFscale s
  | .fprem => Sys2Proof.Machine.execFprem s
  | .frndint => Sys2Proof.Machine.execFrndint s
  | .fxtract => Sys2Proof.Machine.execFxtract s
  | .fabs => Sys2Proof.Machine.execFabs s
  | .fchs => Sys2Proof.Machine.execFchs s
  | .fcomM32 m => Sys2Proof.Machine.execFcomM32 m s
  | .fcomM64 m => Sys2Proof.Machine.execFcomM64 m s
  | .fcomSti k => Sys2Proof.Machine.execFcomSti k s
  | .fcompM32 m => Sys2Proof.Machine.execFcompM32 m s
  | .fcompM64 m => Sys2Proof.Machine.execFcompM64 m s
  | .fcompSti k => Sys2Proof.Machine.execFcompSti k s
  | .fcompp => Sys2Proof.Machine.execFcompp s
  | .ficomM16 m => Sys2Proof.Machine.execFicomM16 m s
  | .ficomM32 m => Sys2Proof.Machine.execFicomM32 m s
  | .ficompM16 m => Sys2Proof.Machine.execFicompM16 m s
  | .ficompM32 m => Sys2Proof.Machine.execFicompM32 m s
  | .ftst => Sys2Proof.Machine.execFtst s
  | .fxam => Sys2Proof.Machine.execFxam s
  | .fptan => Sys2Proof.Machine.execFptan s
  | .fpatan => Sys2Proof.Machine.execFpatan s
  | .f2xm1 => Sys2Proof.Machine.execF2xm1 s
  | .fyl2x => Sys2Proof.Machine.execFyl2x s
  | .fyl2xp1 => Sys2Proof.Machine.execFyl2xp1 s
  | .fldz => Sys2Proof.Machine.execFldz s
  | .fld1 => Sys2Proof.Machine.execFld1 s
  | .fldpi => Sys2Proof.Machine.execFldpi s
  | .fldl2t => Sys2Proof.Machine.execFldl2t s
  | .fldl2e => Sys2Proof.Machine.execFldl2e s
  | .fldlg2 => Sys2Proof.Machine.execFldlg2 s
  | .fldln2 => Sys2Proof.Machine.execFldln2 s
  | .finit => Sys2Proof.Machine.execFinit s
  | .fdisi => Sys2Proof.Machine.execFdisi s
  | .feni => Sys2Proof.Machine.execFeni s
  | .fldcw m => Sys2Proof.Machine.execFldcw m s
  | .fstcw m => Sys2Proof.Machine.execFstcw m s
  | .fstsw m => Sys2Proof.Machine.execFstsw m s
  | .fclex => Sys2Proof.Machine.execFclex s
  | .fstenv m => Sys2Proof.Machine.execFstenv m s
  | .fldenv m => Sys2Proof.Machine.execFldenv m s
  | .fsave m => Sys2Proof.Machine.execFsave m s
  | .frstor m => Sys2Proof.Machine.execFrstor m s
  | .fincstp => Sys2Proof.Machine.execFincstp s
  | .fdecstp => Sys2Proof.Machine.execFdecstp s
  | .ffree k => Sys2Proof.Machine.execFfree k s
  | .fnop => Sys2Proof.Machine.execFnop s
  | .fwait => Sys2Proof.Machine.execFwait s
  | .reservedM opA opB m => Sys2Proof.Machine.execReservedM opA opB m s
  | .reservedR opA opB k => Sys2Proof.Machine.execReservedR opA opB k s

end Sys2Proof.Machine
end

