-- ==== Sys2Proof/Machine/Agents.lean ====
section
/-! DEFINITION. The agents: how the CU takes an instruction event, how the NEU starts and completes an
instruction while the CPU goes on, the queued FNSAVE or FNSTENV, and the CPU's own accesses
(spec/60_exceptions.md R470 to R476; spec/46_processor_control.md R418, R419; spec/20_memory.md R96 to
R106; logs 1, 9 to 14). -/

namespace Sys2Proof.Machine

/-- Bytes of an instruction's memory operand (20_memory.md R90); 0 where it has none. -/
def operandBytes : Instr → Nat
  | .fildM16 _ | .fistM16 _ | .fistpM16 _ | .fiaddM16 _ | .fisubM16 _ | .fisubrM16 _
  | .fimulM16 _ | .fidivM16 _ | .fidivrM16 _ | .ficomM16 _ | .ficompM16 _ | .fldcw _ | .fstcw _
  | .fstsw _ => 2
  | .fldM32 _ | .fstM32 _ | .fstpM32 _ | .fildM32 _ | .fistM32 _ | .fistpM32 _ | .faddM32 _
  | .fiaddM32 _ | .fsubM32 _ | .fisubM32 _ | .fsubrM32 _ | .fisubrM32 _ | .fmulM32 _
  | .fimulM32 _ | .fdivM32 _ | .fidivM32 _ | .fdivrM32 _ | .fidivrM32 _ | .fcomM32 _
  | .fcompM32 _ | .ficomM32 _ | .ficompM32 _ => 4
  | .fldM64 _ | .fstM64 _ | .fstpM64 _ | .fildM64 _ | .fistpM64 _ | .faddM64 _ | .fsubM64 _
  | .fsubrM64 _ | .fmulM64 _ | .fdivM64 _ | .fdivrM64 _ | .fcomM64 _ | .fcompM64 _ => 8
  | .fldM80 _ | .fstpM80 _ | .fbld _ | .fbstp _ => 10
  | .fstenv _ | .fldenv _ => 14
  | .fsave _ | .frstor _ => 94
  | .fldSti _ | .fstSti _ | .fstpSti _ | .fxch _ | .faddSt _ | .faddSti _ | .faddp _ | .fsubSt _
  | .fsubSti _ | .fsubp _ | .fsubrSt _ | .fsubrSti _ | .fsubrp _ | .fmulSt _ | .fmulSti _
  | .fmulp _ | .fdivSt _ | .fdivSti _ | .fdivp _ | .fdivrSt _ | .fdivrSti _ | .fdivrp _ | .fsqrt
  | .fscale | .fprem | .frndint | .fxtract | .fabs | .fchs | .fcomSti _ | .fcompSti _ | .fcompp
  | .ftst | .fxam | .fptan | .fpatan | .f2xm1 | .fyl2x | .fyl2xp1 | .fldz | .fld1 | .fldpi
  | .fldl2t | .fldl2e | .fldlg2 | .fldln2 | .finit | .fdisi | .feni | .fclex | .fincstp
  | .fdecstp | .ffree _ | .fnop | .fwait | .reservedM _ _ _ | .reservedR _ _ _ => 0

/-- The instruction writes its memory operand (R90). -/
def isStore : Instr → Bool
  | .fstM32 _ | .fstM64 _ | .fstpM32 _ | .fstpM64 _ | .fstpM80 _ | .fistM16 _ | .fistM32 _
  | .fistpM16 _ | .fistpM32 _ | .fistpM64 _ | .fbstp _ | .fstcw _ | .fstsw _ | .fstenv _
  | .fsave _ => true
  | .fldM32 _ | .fldM64 _ | .fldM80 _ | .fldSti _ | .fstSti _ | .fstpSti _ | .fxch _ | .fildM16 _
  | .fildM32 _ | .fildM64 _ | .fbld _ | .faddM32 _ | .faddM64 _ | .faddSt _ | .faddSti _
  | .faddp _ | .fiaddM16 _ | .fiaddM32 _ | .fsubM32 _ | .fsubM64 _ | .fsubSt _ | .fsubSti _
  | .fsubp _ | .fisubM16 _ | .fisubM32 _ | .fsubrM32 _ | .fsubrM64 _ | .fsubrSt _ | .fsubrSti _
  | .fsubrp _ | .fisubrM16 _ | .fisubrM32 _ | .fmulM32 _ | .fmulM64 _ | .fmulSt _ | .fmulSti _
  | .fmulp _ | .fimulM16 _ | .fimulM32 _ | .fdivM32 _ | .fdivM64 _ | .fdivSt _ | .fdivSti _
  | .fdivp _ | .fidivM16 _ | .fidivM32 _ | .fdivrM32 _ | .fdivrM64 _ | .fdivrSt _ | .fdivrSti _
  | .fdivrp _ | .fidivrM16 _ | .fidivrM32 _ | .fsqrt | .fscale | .fprem | .frndint | .fxtract
  | .fabs | .fchs | .fcomM32 _ | .fcomM64 _ | .fcomSti _ | .fcompM32 _ | .fcompM64 _
  | .fcompSti _ | .fcompp | .ficomM16 _ | .ficomM32 _ | .ficompM16 _ | .ficompM32 _ | .ftst
  | .fxam | .fptan | .fpatan | .f2xm1 | .fyl2x | .fyl2xp1 | .fldz | .fld1 | .fldpi | .fldl2t
  | .fldl2e | .fldlg2 | .fldln2 | .finit | .fdisi | .feni | .fldcw _ | .fclex | .fldenv _
  | .frstor _ | .fincstp | .fdecstp | .ffree _ | .fnop | .fwait | .reservedM _ _ _
  | .reservedR _ _ _ => false

/-- Who executes an instruction (60_exceptions.md R470; 46_processor_control.md R418, R419). -/
inductive Executor where
  /-- the CU, at once in its no-wait form -/
  | control
  /-- the CU, queued in its no-wait form while the NEU runs -/
  | queued
  /-- the NEU, a load of control state: FLDCW, FLDENV, FRSTOR -/
  | loader
  /-- the NEU, any other instruction -/
  | neu
  /-- none: the CPU's WAIT, and the reserved opcodes -/
  | nobody
deriving DecidableEq, Repr, Inhabited

/-- The executor of each instruction. -/
def executorOf : Instr → Executor
  | .finit | .fdisi | .feni | .fclex | .fstcw _ | .fstsw _ => .control
  | .fstenv _ | .fsave _ => .queued
  | .fldcw _ | .fldenv _ | .frstor _ => .loader
  | .fwait | .reservedM _ _ _ | .reservedR _ _ _ => .nobody
  | .fldM32 _ | .fldM64 _ | .fldM80 _ | .fldSti _ | .fstM32 _ | .fstM64 _ | .fstSti _
  | .fstpM32 _ | .fstpM64 _ | .fstpM80 _ | .fstpSti _ | .fxch _ | .fildM16 _ | .fildM32 _
  | .fildM64 _ | .fistM16 _ | .fistM32 _ | .fistpM16 _ | .fistpM32 _ | .fistpM64 _ | .fbld _
  | .fbstp _ | .faddM32 _ | .faddM64 _ | .faddSt _ | .faddSti _ | .faddp _ | .fiaddM16 _
  | .fiaddM32 _ | .fsubM32 _ | .fsubM64 _ | .fsubSt _ | .fsubSti _ | .fsubp _ | .fisubM16 _
  | .fisubM32 _ | .fsubrM32 _ | .fsubrM64 _ | .fsubrSt _ | .fsubrSti _ | .fsubrp _ | .fisubrM16 _
  | .fisubrM32 _ | .fmulM32 _ | .fmulM64 _ | .fmulSt _ | .fmulSti _ | .fmulp _ | .fimulM16 _
  | .fimulM32 _ | .fdivM32 _ | .fdivM64 _ | .fdivSt _ | .fdivSti _ | .fdivp _ | .fidivM16 _
  | .fidivM32 _ | .fdivrM32 _ | .fdivrM64 _ | .fdivrSt _ | .fdivrSti _ | .fdivrp _ | .fidivrM16 _
  | .fidivrM32 _ | .fsqrt | .fscale | .fprem | .frndint | .fxtract | .fabs | .fchs | .fcomM32 _
  | .fcomM64 _ | .fcomSti _ | .fcompM32 _ | .fcompM64 _ | .fcompSti _ | .fcompp | .ficomM16 _
  | .ficomM32 _ | .ficompM16 _ | .ficompM32 _ | .ftst | .fxam | .fptan | .fpatan | .f2xm1
  | .fyl2x | .fyl2xp1 | .fldz | .fld1 | .fldpi | .fldl2t | .fldl2e | .fldlg2 | .fldln2 | .fincstp
  | .fdecstp | .ffree _ | .fnop => .neu

/-- The NEU executes it. -/
def Executor.onNeu (x : Executor) : Bool := x = .neu || x = .loader

/-- What the CPU presents with an event (30_encoding.md R121, R123), the event itself taken: its bytes are
program (20_memory.md R104), and a WAIT, the only fence, sees every store of the CU finished (R99). -/
def State.present (s : State) (e : Event) (rest : List Input) : State :=
  { s with
    port := ⟨e.ia, opcode11 e.escape, e.seg, e.cpu⟩
    inbox := rest
    code := if e.span ∈ s.code then s.code else e.span :: s.code
    storing := if e.fences then [] else s.storing }

/-! ### Reserved opcodes -/

/-- What the machine runs for an instruction: itself; for a reserved opcode what `reserved_opcode` says:
nothing that could be run, the no-operation that it is, or the instruction it stands for (R147, D14; log 20). -/
def Settings.resolve (c : Settings) (i : Instr) : Option Instr :=
  if isReserved i then
    match c.reserved with
    | .refuse => none
    | .nop => some i
    | .aliased pairs =>
      match pairs.find? fun k => k.1 = opcode11 (encode i) with
      | some k => some (aliasOf k.2 i.memOp?)
      | none => some i
  else some i

/-! ### Memory operands and races -/

/-- The memory operand of a job: its first address and its length. -/
def Job.operand (j : Job) : Option Span :=
  j.instr.memOp?.map fun m => ⟨j.port.ea m, operandBytes j.instr⟩

/-- The addresses of a job's memory operand. -/
def Job.addresses (j : Job) : List Nat :=
  match j.operand with
  | some r => Machine.addresses r.base.toNat r.size
  | none => []

/-- Another agent writes the addresses: those in the job's operand race with it (20_memory.md R96). -/
def Job.touch (j : Job) (xs : List Nat) : Job :=
  { j with raced := xs.filter (fun x => x ∈ j.addresses) ++ j.raced }

/-- The addresses of the job's operand that another agent has written. -/
def Job.hit (j : Job) : List Nat := j.addresses.filter fun x => x ∈ j.raced

/-- Another agent writes the addresses while these jobs run or wait (R96, U20; log 13). -/
def State.touch (s : State) (xs : List Nat) : State :=
  { s with neu := s.neu.map (·.touch xs), queued := s.queued.map (·.touch xs) }

/-- A byte that the NDP may or may not have stored by now: of a destination of the running or the queued
instruction, or of what the CU still stores (R96, U20; log 13). -/
def State.unsettled (s : State) (a : Nat) : Bool :=
  s.storing.any (fun c => c.addr.toNat = a) ||
  (s.neu.toList ++ s.queued.toList).any fun j => isStore j.instr && decide (a ∈ j.addresses)

/-- The CPU reads a byte: any value where it is unsettled (R96, U20; log 13). -/
def State.cpuRead (s : State) (a : Nat) : State :=
  if s.unsettled a then { s with cpuData := Config.freeByte s.draws a, draws := s.draws + 1 }
  else { s with cpuData := s.mem.read a }

/-- The CPU writes a byte. It races with the operands that have it. Against the CU's stores to it, the CPU's
byte stays or is overwritten by one that the CU stores; whatever the byte held before is gone (R96, U20; log 13). -/
def State.cpuWrite (s : State) (a : Nat) (b : Byte) : State :=
  let t := s.touch [a]
  match s.storing.filter (fun c => c.addr.toNat = a) with
  | [] => { t with mem := s.mem.write a b }
  | cells =>
    { t with
      mem := (s.mem.write a b).writeSome s.draws (cells.map fun c => (c.addr, c.new))
      storing := s.storing.map fun c => if c.addr.toNat = a then { c with old := b } else c
      draws := s.draws + 1 }

/-! ### Running an instruction -/

/-- The NEU accepts an instruction and the CPU goes on (R60, R473): the exception pointers are recorded,
BUSY is active, nothing else has happened yet (R474). An instruction that stops, stops here. -/
def State.startNeu (s : State) (i : Instr) : Host.Outcome State Fault Refusal :=
  match exec i s with
  | .next _ =>
    let t := s.begin (i.memOp?.map fun m => (s.ea m).toNat)
    .next { t with neu := some ⟨i, s.port, []⟩, sw := { t.sw with busy := true } }
  | .fault r => .fault r
  | .refused r => .refused r

/-- The bytes of a store to the addresses: what they held in memory before it, and hold after it. -/
def transit (old new : Memory) (xs : List Nat) : List Transit :=
  xs.map fun x => ⟨BitVec.ofNat 20 x, old.read x, new.read x⟩

/-- The CU has stored the operand of a job where the CPU's next action may come before the store is over: it
is not until the next WAIT (20_memory.md R96, R99; log 51). `old` is memory before the store, `new` what the
store makes of it. -/
def State.inTransit (s : State) (old new : Memory) (j : Job) : State :=
  { s with storing := if isStore j.instr then transit old new j.addresses ++ s.storing else s.storing }

/-- The CU executes an instruction now. -/
def State.runControl (s : State) (i : Instr) (overlap : Bool) : Host.Outcome State Fault Refusal :=
  match exec i s with
  | .next t => .next (if overlap then t.inTransit s.mem t.mem ⟨i, s.port, []⟩ else t)
  | .fault r => .fault r
  | .refused r => .refused r

/-- An instruction whose time has come: the NEU starts it where the CPU's next action overlaps it (R473),
else it is executed whole (R475; log 9). -/
def State.run (s : State) (i : Instr) (overlap : Bool) : Host.Outcome State Fault Refusal :=
  match executorOf i with
  | .loader | .neu => if overlap then s.startNeu i else exec i s
  | .control | .queued => s.runControl i overlap
  | .nobody => exec i s

/-- Execute an instruction with the address data its event brought. -/
def State.runJob (s : State) (j : Job) : Host.Outcome State Fault Refusal :=
  match exec j.instr { s with port := j.port } with
  | .next t => .next { t with port := s.port }
  | .fault r => .fault r
  | .refused r => .refused r

/-- Execute a job whose operand another agent may have written meanwhile: it loads any value from such
bytes, and of those it stores, each ends up as its own byte or the other agent's (20_memory.md R96, U20;
log 13). -/
def State.runRaced (s : State) (j : Job) : Host.Outcome State Fault Refusal :=
  if j.hit = [] then s.runJob j
  else if isStore j.instr then
    match s.runJob j with
    | .next t => .next { t with mem := Memory.merge s.mem t.mem s.draws j.hit, draws := t.draws + 1 }
    | .fault r => .fault r
    | .refused r => .refused r
  else
    match State.runJob { s with mem := s.mem.blur s.draws j.hit } j with
    | .next t => .next { t with mem := s.mem, draws := t.draws + 1 }
    | .fault r => .fault r
    | .refused r => .refused r

/-- FLDENV and FRSTOR load the exception pointers (46_processor_control.md R432, R434). -/
def loadsPointers (i : Instr) : Bool :=
  match i with
  | .fldenv _ | .frstor _ => true
  | _ => false

/-- What the NEU's completion of an instruction leaves, `t`, with the exception pointers as they are, in `s`: they
were recorded when it started, and one that the CU has executed since then may have recorded itself
(10_state.md R51, D13; log 18). FLDENV and FRSTOR load them. -/
def State.keepPointers (s t : State) (i : Instr) : State :=
  if loadsPointers i then t else { t with iptr := s.iptr, opc := s.opc, dptr := s.dptr }

/-- Memory as the store of a job leaves it where no other agent writes its operand meanwhile; as it is, for
any other job. -/
def State.stored (s : State) (j : Job) : Memory :=
  match isStore j.instr, s.runJob j with
  | true, .next t => t.mem
  | _, _ => s.mem

/-- The NEU completes the running instruction in one step, and a queued FNSAVE or FNSTENV runs in its
wake (R474, R476). `neu_busy` is false after every completion, also with an unmasked exception, when
`pending` holds BUSY: R60 and R474 let `neu_busy` go only without one, but R428 has FNCLEX release BUSY
then, and R419 has FNSAVE run at once (log 50). -/
def State.complete (s : State) (j : Job) : Host.Outcome State Fault Refusal :=
  match State.runRaced { s with neu := none } j with
  | .next r =>
    let t := s.keepPointers r j.instr
    match t.queued with
    | none => .next t
    | some q =>
      match State.runRaced { t with queued := none } q with
      | .next u => .next (u.inTransit t.mem (State.stored { t with queued := none } q) q)
      | .fault r => .fault r
      | .refused r => .refused r
  | .fault r => .fault r
  | .refused r => .refused r

/-- The store of the running instruction as if it were complete: memory, and the bytes in transit. One that would
stop has stored nothing. -/
def State.storedByNeu (s : State) : Memory × List Transit :=
  match s.neu with
  | none => (s.mem, s.storing)
  | some j =>
    match isStore j.instr, State.runJob { s with neu := none } j with
    | true, .next t => (t.mem, (s.inTransit s.mem t.mem j).storing)
    | _, _ => (s.mem, s.storing)

/-- FNINIT and RESET abort the running instruction and what the CU still stores: of every store each byte is
the old or the new one, and nothing more is undone later (20_memory.md R106, U7; log 14). -/
def State.abort (s : State) : State :=
  match s.storedByNeu with
  | (mem, []) => { s with neu := none, mem }
  | (m, cells) =>
    let mem := m.writeSome s.draws (cells.map fun c => (c.addr, c.old))
    { s with
      neu := none
      mem
      storing := cells.map fun c => { c with old := mem.read c.addr.toNat }
      draws := s.draws + 1 }

/-- A no-wait instruction that the CU executes now, whatever runs (46_processor_control.md R419); one
that stores may not come while another is queued (U6; log 12), and its bytes race with the running
instruction's operand (log 13). -/
def State.controlNow (s : State) (i : Instr) (overlap : Bool) : Host.Outcome State Fault Refusal :=
  match i.memOp? with
  | none => if i = .finit then exec i s.abort else exec i s
  | some m =>
    if s.queued.isSome then .refused .queueOverrun
    else (s.touch (addresses (s.ea m).toNat (operandBytes i))).runControl i overlap

/-- FNSTENV and FNSAVE: queued while the NEU runs, else executed now (R419, R62); an instruction that
stops, stops here. -/
def State.queueOrRun (s : State) (i : Instr) (overlap : Bool) : Host.Outcome State Fault Refusal :=
  if s.neu.isNone then s.runControl i overlap
  else if s.queued.isSome then .refused .queueOverrun
  else
    match exec i s with
    | .next _ => .next { s with queued := some ⟨i, s.port, []⟩ }
    | .fault r => .fault r
    | .refused r => .refused r

/-- The instruction waits until BUSY is inactive: because the CPU executes a WAIT, or because it has none and
`nowait_race` makes it behave as its wait form (R471, R472, D24; log 11). -/
def State.waits (s : State) (e : Event) (i : Instr) : Bool :=
  e.wait || i = .fwait ||
  match executorOf i with
  | .control | .queued => false
  | .loader | .neu | .nobody => s.conf.nowaitRace = .asWaitForm

/-- A no-wait instruction, already presented (R419, R472, D24; log 11). -/
def State.issueNow (s : State) (i : Instr) (overlap : Bool) : Host.Outcome State Fault Refusal :=
  match executorOf i with
  | .control => s.controlNow i overlap
  | .queued => s.queueOrRun i overlap
  | .loader | .neu | .nobody =>
    if s.neu.isSome || s.pending then .refused .nowaitRace else s.run i overlap

/-- The CPU reaches an instruction. One that waits starts only when BUSY is inactive (R471): this step
completes a running instruction first and the CPU keeps waiting; where an exception is pending the wait is
endless (R490; log 10). -/
def State.issue (s : State) (e : Event) (i : Instr) (rest : List Input) :
    Host.Outcome State Fault Refusal :=
  if s.waits e i then
    match s.neu with
    | some j => s.complete j
    | none => if s.pending then .fault .endlessWait else (s.present e rest).run i e.overlap
  else (s.present e rest).issueNow i e.overlap

/-- One action of the outside world (R470). -/
def State.act (s : State) (x : Input) (rest : List Input) : Host.Outcome State Fault Refusal :=
  match x with
  | .insn e =>
    match decodeFull e.bytes with
    | .ok (_, i, _) =>
      match s.conf.resolve i with
      | some k => s.issue e k rest
      | none => .refused (.reservedOpcode (opcode11 e.escape))
    | .error r => .refused (.undecodable r)
  | .neuDone =>
    match s.neu with
    | some j => State.complete { s with inbox := rest } j
    | none => .next { s with inbox := rest }
  | .takeInterrupt =>
    match s.interruptRequest with
    | some _ => .next { s with inbox := rest }
    | none => .fault .noInterruptRequest
  | .cpuRead a =>
    if s.allocated a.toNat then .next (State.cpuRead { s with inbox := rest } a.toNat)
    else .fault (.unallocated a.toNat)
  | .cpuWrite a b =>
    if !s.allocated a.toNat then .fault (.unallocated a.toNat)
    else if s.isProgram a.toNat then .refused (.storeIntoProgram a.toNat)
    else .next (State.cpuWrite { s with inbox := rest } a.toNat b)
  | .reset => .next (State.initialize { s.abort with inbox := rest, storing := [] })

/-- Where the CPU does nothing more, the NEU completes what it runs; else nothing happens (log 9). -/
def State.idle (s : State) : Host.Outcome State Fault Refusal :=
  match s.neu with
  | some j => s.complete j
  | none => .next s

end Sys2Proof.Machine
end

