-- ==== Sys2Proof/Machine/Step.lean ====
section
/-! DEFINITION. One step of the machine, and the state in which a given word is what it runs next
(spec/60_exceptions.md R470; log 1, log 46). -/

namespace Sys2Proof.Machine

/-- One step: the next action of the outside world, or, where there is none, the NEU's completion. -/
def step (s : State) : Host.Outcome State Fault Refusal :=
  match s.inbox with
  | [] => s.idle
  | x :: rest => s.act x rest

/-- The state whose next step runs the instruction of an opcode-table word: an idle NDP, and the CPU
presents that instruction now, at FFFF0H, with the registers it presented last (logs 1, 46, 52). -/
def State.withFetchWord (s : State) (nbits w : Nat) : State :=
  let e : Event := ⟨false, false, 0xFFFF0, tableBytes nbits w, s.port.cpu⟩
  { s with neu := none, queued := none, inbox := .insn e :: s.inbox }

end Sys2Proof.Machine
end

