-- ==== Sys2Proof/Safety.lean ====
section
/-! DEFINITION. The terms in which statements about the machine are made: its invariant, what a completed
instruction leaves as it was, and the exact value of a number. -/

namespace Sys2Proof.Machine

/-- What every step keeps: memory in canonical form; IR, B and `pending` as flags and masks say
(60_exceptions.md R482, 10_state.md R32, R35, R61, R64, D10); the NEU runs only its own instructions (R60),
and only FNSAVE or FNSTENV is queued, while it runs (R62); the constants within their bounds
(45_constant.md R400, D21). -/
structure State.Inv (s : State) : Prop where
  memory : s.mem.wf = true
  pending : s.pending = s.conf.held s.cw.iem (s.sw.ex.unmasked s.cw.masks)
  request : s.sw.ir = s.conf.request s.cw.iem (s.sw.ex.unmasked s.cw.masks)
  busy : s.sw.busy = s.busyLine
  running : ∀ j, s.neu = some j → (executorOf j.instr).onNeu = true
  waiting : ∀ j, s.queued = some j → executorOf j.instr = .queued
  queued : s.queued.isSome = true → s.neu.isSome = true
  settings : s.conf.wf = true

/-- The step ends in a next state of which `P` holds. -/
def Completes (o : Host.Outcome State Fault Refusal) (P : State → Prop) : Prop := ∃ t, o = .next t ∧ P t

/-- Every byte of memory is as before. -/
def MemoryKept (s t : State) : Prop := ∀ x, t.mem.read x = s.mem.read x

/-- Every byte of memory is as before but for the `n` at `a`, which hold `v`, lowest byte first. -/
def MemoryStored (s t : State) (a n v : Nat) : Prop :=
  (∀ k, k < n → t.mem.read (a + k) = BitVec.ofNat 8 (v / 256 ^ k)) ∧
  ∀ x, x < a ∨ a + n ≤ x → t.mem.read x = s.mem.read x

/-- Every register and every tag is as before. -/
def StackKept (s t : State) : Prop :=
  t.sw.top = s.sw.top ∧ (∀ p, t.reg p = s.reg p) ∧ ∀ p, t.tag p = s.tag p

/-- `v` was pushed with its tag; every other register and tag is as before (00_scope.md R9). -/
def Pushed (s t : State) (v : TReal) : Prop :=
  t.sw.top = s.sw.top - 1 ∧
  (∀ p, t.reg p = if p = s.sw.top - 1 then v else s.reg p) ∧
  ∀ p, t.tag p = if p = s.sw.top - 1 then tagOf v else s.tag p

/-- `v` with its tag is in what was `ST(d)`, and where `pop` holds the stack was popped after that: TOP
is one more and the old top is tagged empty. Every other register and tag is as before (R8, R9). -/
def DeliveredTo (s t : State) (d : BitVec 3) (v : TReal) (pop : Bool) : Prop :=
  t.sw.top = (if pop then s.sw.top + 1 else s.sw.top) ∧
  (∀ p, t.reg p = if p = s.sw.top + d then v else s.reg p) ∧
  ∀ p, t.tag p =
    if pop = true ∧ p = s.sw.top then .empty else if p = s.sw.top + d then tagOf v else s.tag p

/-- Every register is as before, and the stack was popped `n` times. -/
def Popped (s t : State) (n : Nat) : Prop :=
  t.sw.top = s.sw.top + BitVec.ofNat 3 n ∧
  (∀ p, t.reg p = s.reg p) ∧
  ∀ p, t.tag p = if (p - s.sw.top).toNat < n then .empty else s.tag p

/-- What belongs to the CPU, to an instruction under way, or to nobody, is as before. -/
structure OthersKept (s t : State) : Prop where
  neu : t.neu = s.neu
  queue : t.queued = s.queued
  presented : t.port = s.port
  inbox : t.inbox = s.inbox
  cpuData : t.cpuData = s.cpuData
  storing : t.storing = s.storing
  code : t.code = s.code
  settings : t.conf = s.conf

/-- The exception pointers record the instruction the CPU presents and its operand, where it is in
`ptr_update_set`; else they stay (10_state.md R50, R51, D13). -/
structure Recorded (s t : State) (ea : Option Addr) : Prop where
  instruction : t.iptr = if s.recordsPointers then s.port.ia else s.iptr
  opcode : t.opc = if s.recordsPointers then s.port.op else s.opc
  operand : t.dptr = if s.recordsPointers then ea.getD s.dptr else s.dptr

/-- IR, B and `pending` are what flags and masks make them (60_exceptions.md R482). -/
structure Reacted (t : State) : Prop where
  pending : t.pending = t.conf.held t.cw.iem (t.sw.ex.unmasked t.cw.masks)
  request : t.sw.ir = t.conf.request t.cw.iem (t.sw.ex.unmasked t.cw.masks)
  busy : t.sw.busy = (t.neu.isSome || t.pending)

/-- What an instruction of the NEU does beside its own effect: exactly the exceptions `raised` are added
to the flags (60_exceptions.md R477), the NDP reacts (R482), the exception pointers record the
instruction (10_state.md R51), and the control word, what the CPU presents, and the other agents' state
stay. -/
structure Ran (s t : State) (ea : Option Addr) (raised : ExcSet) : Prop where
  flags : t.sw.ex = s.sw.ex.union raised
  reacted : Reacted t
  control : t.cw = s.cw
  recorded : Recorded s t ea
  others : OthersKept s t

/-- Of the status and control words, only `raised` may be new (and what `react()` makes of it, and the
condition code), and the other agents' state stays: what `Ran` says, but for the decisions of the spec
about the exception pointers and the interrupt state. -/
structure Raised (s t : State) (raised : ExcSet) : Prop where
  flags : t.sw.ex = s.sw.ex.union raised
  control : t.cw = s.cw
  others : OthersKept s t

/-- The operand of `n` bytes ends at or below FFFFFH and lies in the allocated memory
(20_memory.md R89, R94, D3, D4; logs 6, 8). -/
def State.Fits (s : State) (m : MemOp) (n : Nat) : Prop :=
  (s.ea m).toNat + n ≤ 2 ^ 20 ∧
  ∀ x, (s.ea m).toNat ≤ x → x < (s.ea m).toNat + n → s.allocated x = true

/-- No byte of the operand is a byte of the program (20_memory.md R104, D6; log 44). -/
def State.Writable (s : State) (m : MemOp) (n : Nat) : Prop :=
  ∀ x, (s.ea m).toNat ≤ x → x < (s.ea m).toNat + n → s.isProgram x = false

/-- The exceptions flagged of those found in the operands, where one of them is unmasked: in the order I, D, Z, no
other after the first unmasked one (60_exceptions.md R489, D23). -/
def ExcSet.upTo (found masks : ExcSet) : ExcSet :=
  let pastI := !found.i || masks.i
  let pastD := pastI && (!found.d || masks.d)
  { ExcSet.none with i := found.i, d := pastI && found.d, z := pastD && found.z }

/-- An unmasked exception has abandoned the instruction: exactly `raised` is added to the flags, the exception
pointers record it, the NDP has stopped with the exception pending (under the setting `release` only while IEM is
0, log 17), and no register, tag, TOP or byte of memory has changed (60_exceptions.md R479, R481, R482). -/
structure Abandoned (s t : State) (ea : Option Addr) (raised : ExcSet) : Prop where
  ran : Ran s t ea raised
  stack : StackKept s t
  memory : MemoryKept s t
  pending : t.conf.busyWhenIem = .hold ∨ t.cw.iem = false → t.pending = true

/-- The comparisons: each with its memory operand and that one's length, its source and its pops (43_comparison.md
R350 to R357). -/
def State.comparisons (s : State) (k : BitVec 3) (m : MemOp) : List (Instr × Option MemOp × Nat × Source × Nat) :=
  let a := (s.ea m).toNat
  [(.fcomSti k, none, 0, s.sourceSt k, 0), (.fcompSti k, none, 0, s.sourceSt k, 1),
    (.fcompp, none, 0, s.sourceSt 1, 2), (.ftst, none, 0, ⟨some 0, false⟩, 0),
    (.fcomM32 m, some m, 4, s.sourceReal .short a, 0), (.fcomM64 m, some m, 8, s.sourceReal .long a, 0),
    (.fcompM32 m, some m, 4, s.sourceReal .short a, 1), (.fcompM64 m, some m, 8, s.sourceReal .long a, 1),
    (.ficomM16 m, some m, 2, s.sourceInt .word a, 0), (.ficomM32 m, some m, 4, s.sourceInt .short a, 0),
    (.ficompM16 m, some m, 2, s.sourceInt .word a, 1), (.ficompM32 m, some m, 4, s.sourceInt .short a, 1)]

/-- None of the exceptions found in the operands is unmasked, so that the instruction is not abandoned
(60_exceptions.md R479). -/
def Proceeds (s : State) (before : ExcSet) : Prop := before.unmasked s.cw.masks = false

/-- The exact value of a finite temporary real (40_numerics.md R177). -/
def Val.value (v : Val) : ℚ := (if v.neg then -1 else 1) * v.m * 2 ^ v.e

/-- `n` is `v` rounded to an integer under a rounding control: 00 nearest, a tie to even; 01 down; 10 up;
11 chop (R195, R196). -/
def RoundsTo (rc : BitVec 2) (v : ℚ) (n : ℤ) : Prop :=
  (rc = 0 → |(n : ℚ) - v| ≤ 1 / 2 ∧ (|(n : ℚ) - v| = 1 / 2 → n % 2 = 0)) ∧
  (rc = 1 → n = ⌊v⌋) ∧ (rc = 2 → n = ⌈v⌉) ∧ (rc = 3 → n = if v < 0 then ⌈v⌉ else ⌊v⌋)

/-- The exact value of a register's content, for exponents other than 7FFFH (R177). -/
def valueOf (r : TReal) : ℚ := (valOf r).value

end Sys2Proof.Machine
end

