-- ==== Sys2Proof/Certificates/Slice0/Obligations.lean ====
section
/-! DEFINITION. Statements about the machine, for the provers. -/

open Sys2Proof Sys2Proof.Machine

/-! ### Encoding -/

/-- Decoding the bytes of any well-formed instruction gives that instruction and leaves what follows, with
or without a segment-override byte in front: no bit of an encoding is dropped
(spec/30_encoding.md sections 1 to 3). -/
def Obligations.DecodeOfEncode : Prop :=
  (∀ (i : Instr) (rest : List Byte), i.wf = true → decode (encode i ++ rest) = .ok (i, rest)) ∧
  ∀ (seg : Option SegReg) (i : Instr) (rest : List Byte), i.wf = true → (i = .fwait → seg = none) →
    decodeFull (encodeFull seg i ++ rest) = .ok (seg, i, rest)

/-- Whatever the decoder reads is well-formed and has just those bytes as its encoding, so that no two
byte strings decode to one instruction; the same with the segment-override byte
(spec/30_encoding.md sections 1 to 3). -/
def Obligations.EncodeOfDecode : Prop :=
  (∀ (bs rest : List Byte) (i : Instr), decode bs = .ok (i, rest) → i.wf = true ∧ encode i ++ rest = bs) ∧
  ∀ (bs rest : List Byte) (seg : Option SegReg) (i : Instr), decodeFull bs = .ok (seg, i, rest) →
    i.wf = true ∧ encodeFull seg i ++ rest = bs

/-- Words written out from the encoding tables, and printed in Figure S-24, decode to the instructions
they stand for; so do the four segment-override bytes (spec/95_test_vectors.md S2 and section 2.8,
spec/30_encoding.md section 2). -/
def Obligations.SampleWordsDecode : Prop :=
  decode [0xD9, 0x84, 0x04, 0x00] = .ok (.fldM32 (.disp16 .si 4), []) ∧
  decode [0xDC, 0xC3] = .ok (.faddSti 3, []) ∧
  decode [0xDE, 0x0E, 0x02, 0x00] = .ok (.fimulM16 (.direct 2), []) ∧
  decode [0xDC, 0xE3] = .ok (.fsubrSti 3, []) ∧
  decode [0xDE, 0xD9] = .ok (.fcompp, []) ∧
  decode [0xD9, 0xF2] = .ok (.fptan, []) ∧
  decode [0xD9, 0xEB] = .ok (.fldpi, []) ∧
  decode [0xDD, 0x3E, 0x00, 0x10] = .ok (.fstsw (.direct 0x1000), []) ∧
  decodeFull [0x26, 0xD9, 0x07] = .ok (some .es, .fldM32 (.noDisp .bx), []) ∧
  decodeFull [0x2E, 0xDD, 0x47, 0xFE] = .ok (some .cs, .fldM64 (.disp8 .bx 0xFE), []) ∧
  decodeFull [0x36, 0xDB, 0x3C] = .ok (some .ss, .fstpM80 (.noDisp .si), []) ∧
  decodeFull [0x3E, 0xD9, 0xC1] = .ok (some .ds, .fldSti 1, [])

/-- The reserved encodings are those that the spec lists, no more and no fewer: seven cells of the memory
format, and the values of the second byte that R132 and R133 leave over (spec/30_encoding.md R148). -/
def Obligations.ReservedEncodingsAreThoseListed : Prop :=
  (∀ (opA opB : BitVec 3) (m : MemOp),
    decodeMemForm opA opB m = .reservedM opA opB m ↔
      (opA.toNat, opB.toNat) ∈ [(1, 1), (3, 1), (3, 4), (3, 6), (5, 1), (5, 5), (7, 1)]) ∧
  ∀ opA opB i : BitVec 3,
    let b1 := 0xC0 + opB.toNat * 8 + i.toNat
    (decodeRegForm opA opB i = .reservedR opA opB i ↔
      (opA = 1 ∧ ((0xD1 ≤ b1 ∧ b1 ≤ 0xDF) ∨
        b1 ∈ [0xE2, 0xE3, 0xE6, 0xE7, 0xEF, 0xF5, 0xFB, 0xFE, 0xFF])) ∨
      opA = 2 ∨
      (opA = 3 ∧ (b1 ≤ 0xDF ∨ 0xE4 ≤ b1)) ∨
      (opA = 4 ∧ 0xD0 ≤ b1 ∧ b1 ≤ 0xDF) ∨
      (opA = 5 ∧ ((0xC8 ≤ b1 ∧ b1 ≤ 0xCF) ∨ 0xE0 ≤ b1)) ∨
      (opA = 6 ∧ ((0xD0 ≤ b1 ∧ b1 ≤ 0xD8) ∨ (0xDA ≤ b1 ∧ b1 ≤ 0xDF))) ∨
      opA = 7)

/-- A reserved opcode does nothing, in either format and from every state. A step that meets one on an idle
NDP does what the parameter `reserved_opcode` says: it is refused; or it is only presented; or, where its
eleven bits are an alias, the step is that of the instruction which the first matching entry names
(spec/30_encoding.md section 4; the parameter is decision D14, and what `nop` and `alias` do in detail, and
`nop` at reset, are the model's choice, log 20). -/
def Obligations.ReservedOpcodesDoNothing : Prop :=
  ∀ (i : Instr), (∃ opA opB m, i = .reservedM opA opB m) ∨ (∃ opA opB k, i = .reservedR opA opB k) →
    (∀ s : State, exec i s = .next s) ∧
    ∀ (s : State) (e : Event) (rest : List Input) (seg : Option SegReg) (left : List Byte),
      s.inbox = .insn e :: rest → decodeFull e.bytes = .ok (seg, i, left) →
      s.neu = none → s.queued = none → s.pending = false →
      let p := s.present e rest
      let own := opcode11 (encode i)
      opcode11 e.escape = own ∧
      (s.conf.reserved = .refuse → step s = .refused (.reservedOpcode own)) ∧
      (s.conf.reserved = .nop → step s = .next p) ∧
      ∀ pairs, s.conf.reserved = .aliased pairs →
        ((∀ x ∈ pairs, x.1 ≠ own) → step s = .next p) ∧
        ∀ front op back, pairs = front ++ (own, op) :: back → (∀ x ∈ front, x.1 ≠ own) →
          let k := match i.memOp? with
            | some m => decodeMemForm (op.extractLsb' 8 3) (op.extractLsb' 3 3) m
            | none => decodeRegForm (op.extractLsb' 8 3) (op.extractLsb' 3 3) (op.extractLsb' 0 3)
          (e.overlap = false → step s = exec k (if k = .finit then p.abort else p)) ∧
          (e.overlap = true → (executorOf k).onNeu = true → step s = p.startNeu k) ∧
          (e.overlap = true → (executorOf k).onNeu = false → isStore k = false →
            step s = exec k (if k = .finit then p.abort else p)) ∧
          ∀ m t, e.overlap = true → isStore k = true → (executorOf k).onNeu = false → k.memOp? = some m →
            exec k p = .next t →
            step s = .next { t with storing := transit s.mem t.mem (addresses (p.ea m).toNat (operandBytes k)) ++ t.storing }

/-- The operand address by every row of the addressing table, with the default segment of the row or the
one that an override names; and which byte in front of the escape byte names which segment
(spec/30_encoding.md section 2). -/
def Obligations.OperandAddressTable : Prop :=
  (∀ (p : Port) (rm : BitVec 3) (d8 : BitVec 8) (d16 : BitVec 16),
    let r := p.cpu
    let base : Nat := match rm.toNat with
      | 0 => r.bx.toNat + r.si.toNat | 1 => r.bx.toNat + r.di.toNat
      | 2 => r.bp.toNat + r.si.toNat | 3 => r.bp.toNat + r.di.toNat
      | 4 => r.si.toNat | 5 => r.di.toNat | 6 => r.bp.toNat | _ => r.bx.toNat
    let seg (dflt : BitVec 16) : Nat := match p.seg with
      | none => dflt.toNat
      | some .es => r.es.toNat | some .cs => r.cs.toNat | some .ss => r.ss.toNat | some .ds => r.ds.toNat
    let dflt := if rm = 2 ∨ rm = 3 ∨ rm = 6 then r.ss else r.ds
    (rm ≠ 6 → (p.ea (.noDisp (Base.ofCode rm))).toNat = (seg dflt * 16 + base % 2 ^ 16) % 2 ^ 20) ∧
    (p.ea (.direct d16)).toNat = (seg r.ds * 16 + d16.toNat) % 2 ^ 20 ∧
    ((p.ea (.disp8 (Base.ofCode rm) d8)).toNat : Int) =
      (seg dflt * 16 + (base + d8.toInt) % 2 ^ 16) % 2 ^ 20 ∧
    (p.ea (.disp16 (Base.ofCode rm) d16)).toNat = (seg dflt * 16 + (base + d16.toNat) % 2 ^ 16) % 2 ^ 20) ∧
  ∀ (s : State) (e : Event) (rest : List Input) (b : Byte) (bs : List Byte), e.bytes = b :: bs →
    let t := s.present e rest
    t.port.cpu = e.cpu ∧ t.port.ia = e.ia ∧
    t.port.seg = (if b = 0x26 then some .es else if b = 0x2E then some .cs
      else if b = 0x36 then some .ss else if b = 0x3E then some .ds else none) ∧
    t.port.op = opcode11 (if b = 0x26 ∨ b = 0x2E ∨ b = 0x36 ∨ b = 0x3E then bs else b :: bs)

/-! ### The step and the agents -/

/-- A step runs the decoded instruction: where the CPU's next action is an instruction and the NDP is idle,
the step is `exec` of that instruction, once the CPU has presented its address data and the event is
taken; FNINIT first cuts short what the CU may still be storing. The model's choices: an instruction that the
CPU does not overlap executes whole (log 9), the operand that the CU stores for an overlapped one is in transit
after it (log 51), with the bytes from before, which an abort may leave (log 14), and a reserved opcode runs
what the setting makes of it (log 20); every other is run itself. -/
def Obligations.StepRunsDecodedInstruction : Prop :=
  ∀ (s : State) (e : Event) (rest : List Input) (seg : Option SegReg) (i : Instr) (left : List Byte),
    s.inbox = .insn e :: rest → decodeFull e.bytes = .ok (seg, i, left) →
    s.neu = none → s.queued = none → s.pending = false →
    let p := s.present e rest
    ((∀ a b m, i ≠ .reservedM a b m) → (∀ a b r, i ≠ .reservedR a b r) → s.conf.resolve i = some i) ∧
    ∀ k, s.conf.resolve i = some k →
      (k ≠ .finit → e.overlap = false → step s = exec k p) ∧
      (k = .finit → step s = exec k p.abort ∧ (e.wait = true ∨ s.storing = [] → p.abort = p)) ∧
      (k ≠ .finit → e.overlap = true → (executorOf k).onNeu = false →
        (isStore k = false → step s = exec k p) ∧
        ∀ m t, isStore k = true → k.memOp? = some m → exec k p = .next t →
          step s = .next { t with storing := transit s.mem t.mem (addresses (p.ea m).toNat (operandBytes k)) ++ t.storing })

/-- The CPU's WAIT, alone or in front of an instruction, does not complete while BUSY is active: a running
instruction is completed first and the event stays; with an exception pending the wait is endless; with
BUSY inactive the instruction starts, everything that the CU was storing is stored, and FWAIT itself changes
nothing. An instruction without a WAIT leaves in transit what the CU may still be storing: the WAIT is the only
fence (spec/60_exceptions.md sections 1 and 5, spec/20_memory.md section 5; that a step completes the running
instruction, and that the endless wait is a fault, are the model's choice, logs 9 and 10). -/
def Obligations.WaitHoldsTheCpu : Prop :=
  (∀ (s : State) (e : Event) (rest : List Input) (seg : Option SegReg) (i k : Instr) (left : List Byte),
    s.inbox = .insn e :: rest → decodeFull e.bytes = .ok (seg, i, left) → s.conf.resolve i = some k →
    let p := s.present e rest
    (e.wait = true ∨ i = .fwait →
      p.storing = [] ∧
      (∀ j, s.neu = some j → step s = s.complete j) ∧
      (s.neu = none → s.pending = true → step s = .fault .endlessWait) ∧
      (s.neu = none → s.pending = false → step s = p.run k e.overlap)) ∧
    (e.wait = false → i ≠ .fwait → p.storing = s.storing)) ∧
  ∀ s : State, (s.pending = false → exec .fwait s = .next s) ∧
    (s.pending = true → exec .fwait s = .fault .endlessWait)

/-- An instruction that the CPU overlaps shows nothing of its effect before it completes, while BUSY is
active; where the CPU does nothing in between, the two steps give what the one sequential step gives
(spec/60_exceptions.md section 1). Of registers, tags, TOP, condition code and flags that is decision D25; that
memory too is as before until the completion is the model's choice (log 9, with the races of log 13), since
D25 leaves the moment of a memory access open. -/
def Obligations.OverlappedInstructionIsSequential : Prop :=
  ∀ (s u : State) (e : Event) (rest : List Input) (seg : Option SegReg) (i k : Instr) (left : List Byte),
    s.inbox = .insn { e with overlap := true } :: .neuDone :: rest → decodeFull e.bytes = .ok (seg, i, left) →
    s.conf.resolve i = some k → (executorOf k).onNeu = true →
    s.neu = none → s.queued = none → s.pending = false →
    step { s with inbox := .insn { e with overlap := false } :: rest } = .next u →
    ∃ t, step s = .next t ∧ step t = .next u ∧
      t.busyLine = true ∧ t.sw.busy = true ∧ t.sw.ex = s.sw.ex ∧ t.sw.code = s.sw.code ∧
      t.cw = s.cw ∧ StackKept s t ∧ MemoryKept s t

/-- Instructions without a WAIT while the NEU runs or an exception is pending: one that is not of the eight
no-wait forms is refused, or, under the other setting of `nowait_race`, behaves as its wait form: a running
instruction is completed first, and with an exception pending the wait is endless; FNSAVE and FNSTENV are
queued while the NEU runs; a second one that stores is refused; with the NEU idle, also with an exception
pending, the eight run at once (spec/60_exceptions.md section 1; decision D24 leaves `nowait_race` open, and
its settings and the refusal of the second one are the model's choice, logs 11 and 12). -/
def Obligations.NoWaitFormsWhileBusy : Prop :=
  ∀ (s : State) (e : Event) (rest : List Input) (seg : Option SegReg) (i k : Instr) (left : List Byte),
    s.inbox = .insn e :: rest → decodeFull e.bytes = .ok (seg, i, left) → e.wait = false → i ≠ .fwait →
    s.conf.resolve i = some k →
    let p := s.present e rest
    (executorOf k ≠ .control → executorOf k ≠ .queued →
      (s.conf.nowaitRace = .refuse → s.busyLine = true → step s = .refused .nowaitRace) ∧
      (s.conf.nowaitRace = .asWaitForm →
        (∀ j, s.neu = some j → step s = s.complete j) ∧
        (s.neu = none → s.pending = true → step s = .fault .endlessWait)) ∧
      (s.busyLine = false → step s = p.run k e.overlap)) ∧
    (∀ j m, s.neu = some j → s.queued = none → k = .fsave m ∨ k = .fstenv m →
      p.Fits m (operandBytes k) → p.Writable m (operandBytes k) →
      step s = .next { p with queued := some ⟨k, p.port, []⟩ }) ∧
    (s.neu.isSome = true → s.queued.isSome = true →
      (∃ m, k = .fsave m ∨ k = .fstenv m ∨ k = .fstcw m ∨ k = .fstsw m) →
      step s = .refused .queueOverrun) ∧
    (s.neu = none → s.queued = none → e.overlap = false → executorOf k = .control ∨ executorOf k = .queued →
      step s = exec k (if k = .finit then p.abort else p))

/-- The CU while the NEU runs: FNDISI, FNENI and FNCLEX execute at once and the NEU runs on; FNSTCW and
FNSTSW store at once, and the running instruction learns which bytes were written. What the NEU completes
leaves the exception pointers as they are by then, unless it loads them. FNINIT, whatever runs,
aborts the running instruction and what the CU still stores, drops a queued instruction and initializes: only
bytes of the operand of the running store may have become what it would have stored there, and bytes in transit
what they were before; nothing more can be undone after that. A queued FNSAVE or FNSTENV runs in the wake of the completion,
on the state that the completed instruction left (spec/46_processor_control.md section 1,
spec/60_exceptions.md section 1, spec/20_memory.md section 4; that bytes which the CU writes race with the
running instruction's operand is inferred, log 13; that a store cut short keeps to old and new bytes, also of a
store of the CU, is log 14; that the operand of the queued instruction is then in transit is log 51; which of
them record the exception pointers is log 18). -/
def Obligations.ControlUnitWhileTheNeuRuns : Prop :=
  (∀ (s : State) (e : Event) (rest : List Input) (seg : Option SegReg) (i : Instr) (left : List Byte) (j : Job),
    s.Inv → s.inbox = .insn e :: rest → decodeFull e.bytes = .ok (seg, i, left) → e.wait = false →
    s.neu = some j →
    let p := s.present e rest
    (i ∈ [Instr.fdisi, .feni, .fclex] → step s = exec i p ∧ Completes (step s) fun t => t.neu = some j) ∧
    (∀ m, i = .fstcw m ∨ i = .fstsw m → s.queued = none → p.Fits m 2 → p.Writable m 2 →
      ∃ t, exec i p = .next t ∧ Completes (step s) fun u =>
        u.mem = t.mem ∧ u.regs = s.regs ∧ u.tags = s.tags ∧ u.sw = s.sw ∧ u.cw = s.cw ∧
        Recorded p u (some (p.ea m)) ∧
        u.neu = some { j with raced := u.neu.elim [] (·.raced) } ∧
        ∀ x, x ∈ u.neu.elim [] (·.raced) ↔
          x ∈ j.raced ∨ (x ∈ j.addresses ∧ (p.ea m).toNat ≤ x ∧ x < (p.ea m).toNat + 2))) ∧
  (∀ (s : State) (e : Event) (rest : List Input) (seg : Option SegReg) (left : List Byte),
    s.Inv → s.inbox = .insn e :: rest → decodeFull e.bytes = .ok (seg, .finit, left) → e.wait = false →
    Completes (step s) fun t =>
      t.neu = none ∧ t.queued = none ∧ t.pending = false ∧ t.busyLine = false ∧ t.intLine = false ∧
      t.sw.busy = false ∧ t.cw.toBits = 0x03FF ∧ tagWord t.tags = 0xFFFF ∧ t.regs = s.regs ∧
      Recorded (s.present e rest) t none ∧
      (∀ x, t.mem.read x = s.mem.read x ∨
        (∃ j u, s.neu = some j ∧ isStore j.instr = true ∧ x ∈ j.addresses ∧
          exec j.instr { s.present e rest with neu := none, port := j.port } = .next u ∧
          t.mem.read x = u.mem.read x) ∨
        ∃ c ∈ s.storing, c.addr.toNat = x ∧ t.mem.read x = c.old) ∧
      ∀ c ∈ t.storing, t.mem.read c.addr.toNat = c.old) ∧
  ∀ (s t : State) (rest : List Input) (j q : Job) (m : MemOp), s.Inv → s.inbox = .neuDone :: rest →
    s.neu = some j → s.queued = some q → j.hit = [] → q.hit = [] →
    exec j.instr { s with inbox := rest, neu := none, port := j.port } = .next t →
    q.instr = .fsave m ∨ q.instr = .fstenv m →
    let r := if loadsPointers j.instr then t else { t with iptr := s.iptr, opc := s.opc, dptr := s.dptr }
    let v : State := { r with queued := none, port := q.port }
    v.Fits m (operandBytes q.instr) → v.Writable m (operandBytes q.instr) →
    ∃ u, exec q.instr v = .next u ∧
      step s = .next { u with
        port := s.port
        storing := transit t.mem u.mem (addresses (q.port.ea m).toNat (operandBytes q.instr)) ++ u.storing }

/-- The CPU beside the NDP. It reads what memory holds, but for bytes that the NDP may still be storing, of
which nothing is known; its writes reach memory, or, against a store of
the CU in transit, leave their byte or the one that the CU stores, and nothing older; outside the allocated memory both stop, and a write into
the program, also into the CPU's own instructions where a setting names them, is refused. Where it has written
into the operand of a running store, each such byte ends up as the CPU's or the NDP's, every other as the NDP's;
a running load leaves memory. It can take an interrupt only while the INT line is active, as interrupt VEC_EXC,
and that changes nothing in the NDP (spec/20_memory.md section 5, spec/60_exceptions.md section 5; the races are
log 13, what is in transit is log 51, the stops are logs 6, 44 and 45). -/
def Obligations.CpuAccessesAndInterrupt : Prop :=
  (∀ (s : State) (a : Addr) (rest : List Input), s.inbox = .cpuRead a :: rest →
    (s.allocated a.toNat = false → step s = .fault (.unallocated a.toNat)) ∧
    (s.allocated a.toNat = true → Completes (step s) fun t =>
      t = { s with inbox := rest, cpuData := t.cpuData, draws := t.draws } ∧
      ((∀ c ∈ s.storing, c.addr.toNat ≠ a.toNat) →
        (∀ j, s.neu = some j ∨ s.queued = some j → isStore j.instr = true → a.toNat ∉ j.addresses) →
        t.cpuData = s.mem.read a.toNat))) ∧
  (∀ (s : State) (a : Addr) (b : Byte) (rest : List Input), s.Inv → s.inbox = .cpuWrite a b :: rest →
    (s.allocated a.toNat = false → step s = .fault (.unallocated a.toNat)) ∧
    ((∃ r ∈ s.conf.program ++ s.code, r.has a.toNat = true) → s.isProgram a.toNat = true) ∧
    (s.allocated a.toNat = true → s.isProgram a.toNat = true → step s = .refused (.storeIntoProgram a.toNat)) ∧
    (s.allocated a.toNat = true → s.isProgram a.toNat = false → Completes (step s) fun t =>
      t = { s with
        inbox := rest
        mem := t.mem
        neu := t.neu
        queued := t.queued
        draws := t.draws
        storing := s.storing.map fun c => if c.addr.toNat = a.toNat then { c with old := b } else c } ∧
      (∀ x, x ≠ a.toNat → t.mem.read x = s.mem.read x) ∧
      (t.mem.read a.toNat = b ∨ ∃ c ∈ s.storing, c.addr.toNat = a.toNat ∧ t.mem.read a.toNat = c.new) ∧
      ∀ j, s.neu = some j → (j.addresses.contains a.toNat = false → t.neu = some j) ∧
        (a.toNat ∈ j.addresses → t.neu = some { j with raced := a.toNat :: j.raced }))) ∧
  (∀ (s t : State) (rest : List Input) (j : Job), s.Inv → s.inbox = .neuDone :: rest → s.neu = some j →
    s.queued = none → exec j.instr { s with inbox := rest, neu := none, port := j.port } = .next t →
    ((∀ x ∈ j.raced, x ∉ j.addresses) → step s = .next
      (if loadsPointers j.instr then { t with port := s.port }
      else { t with port := s.port, iptr := s.iptr, opc := s.opc, dptr := s.dptr })) ∧
    (isStore j.instr = true → Completes (step s) fun u =>
      u.regs = t.regs ∧ u.tags = t.tags ∧ u.sw = t.sw ∧
      ∀ x, u.mem.read x = t.mem.read x ∨
        (x ∈ j.raced ∧ x ∈ j.addresses ∧ u.mem.read x = s.mem.read x)) ∧
    (isStore j.instr = false → Completes (step s) fun u => MemoryKept s u)) ∧
  ∀ (s : State) (rest : List Input), s.inbox = .takeInterrupt :: rest →
    (s.sw.ir = true → s.cw.iem = false →
      s.interruptRequest = some s.conf.vecExc ∧ step s = .next { s with inbox := rest }) ∧
    (s.sw.ir = false ∨ s.cw.iem = true →
      s.interruptRequest = none ∧ step s = .fault .noInterruptRequest)

/-- Every step keeps the invariant, from every state that has it. -/
def Obligations.StepKeepsInvariant : Prop :=
  ∀ s t : State, s.Inv → step s = .next t → t.Inv

/-- The state after reset has the invariant. -/
def Obligations.ResetHasInvariant : Prop := State.reset.Inv

/-- What RESET leaves, by the table of spec/10_state.md section 9: in the state after reset and after the
input RESET, whatever runs. RESET changes no register and no exception pointer; an instruction of the NEU that runs
is aborted: bytes of the operand of a running store may have become what it would have stored there, and bytes which
the CU was still storing may be as they were before; no other byte of memory changes (logs 14 and 47). -/
def Obligations.ResetValues : Prop :=
  let ResetTo (t : State) : Prop :=
    t.cw.toBits = 0x03FF ∧ tagWord t.tags = 0xFFFF ∧ t.sw.top = 0 ∧ t.sw.ex = .none ∧
    t.sw.ir = false ∧ t.sw.busy = false ∧ t.neu = none ∧ t.pending = false ∧ t.queued = none ∧
    t.storing = [] ∧ t.busyLine = false ∧ t.intLine = false
  ResetTo State.reset ∧
  ∀ (s : State) (rest : List Input), s.inbox = .reset :: rest →
    Completes (step s) fun t => ResetTo t ∧ t.regs = s.regs ∧ t.iptr = s.iptr ∧ t.opc = s.opc ∧
      t.dptr = s.dptr ∧ t.inbox = rest ∧ t.conf = s.conf ∧ t.code = s.code ∧
      (s.neu = none → s.storing = [] → t.mem = s.mem) ∧
      (s.mem.wf = true → ∀ x, t.mem.read x = s.mem.read x ∨
        (∃ j u, s.neu = some j ∧ isStore j.instr = true ∧ x ∈ j.addresses ∧
          exec j.instr { s with neu := none, port := j.port } = .next u ∧ t.mem.read x = u.mem.read x) ∨
        ∃ c ∈ s.storing, c.addr.toNat = x ∧ t.mem.read x = c.old)

/-! ### Rules of the whole machine -/

/-- `react()` has run after every instruction of the NEU and after FLDCW, FLDENV, FRSTOR, FCLEX, FINIT,
FSAVE and FSTENV: IR, B and both lines are what flags, masks and the NEU make them, under the setting
`release` with IEM in their stead (spec/60_exceptions.md section 2; that IR and B follow flags and masks is
the spec's decision D9, D10, log 17). -/
def Obligations.NdpReactsAfterEveryInstruction : Prop :=
  ∀ (i : Instr) (s t : State), exec i s = .next t →
    i ≠ .fdisi → i ≠ .feni → i ≠ .fwait → (∀ m, i ≠ .fstcw m ∧ i ≠ .fstsw m) →
    (∀ a b m, i ≠ .reservedM a b m) → (∀ a b k, i ≠ .reservedR a b k) →
    let unm := (t.sw.ex.i && !t.cw.masks.i) || (t.sw.ex.d && !t.cw.masks.d) ||
      (t.sw.ex.z && !t.cw.masks.z) || (t.sw.ex.o && !t.cw.masks.o) ||
      (t.sw.ex.u && !t.cw.masks.u) || (t.sw.ex.p && !t.cw.masks.p)
    (t.conf.busyWhenIem = .hold ∨ t.cw.iem = false → t.pending = unm ∧ t.sw.ir = unm) ∧
    (∀ ir, t.conf.busyWhenIem = .release ir → t.cw.iem = true → t.pending = false ∧ t.sw.ir = (unm && ir)) ∧
    t.sw.busy = (t.neu.isSome || t.pending) ∧ t.busyLine = (t.neu.isSome || t.pending) ∧
    t.intLine = (t.sw.ir && !t.cw.iem)

/-- FDISI sets the interrupt enable mask and FENI clears it; it is bit 7 of the control word, where the
status word has IR; it gates the INT line, and nothing else changes, but that the exception pointers record it
where the setting puts it into `ptr_update_set` (spec/10_state.md sections 5 and 8,
spec/46_processor_control.md section 2; the pointers are log 18). That BUSY, IR and `pending` stay is the setting `hold` of decision
D10; under `release` the NDP reacts, so that they follow IEM (log 17). -/
def Obligations.InterruptEnableMask : Prop :=
  ∀ s : State,
    let Others (t : State) : Prop :=
      t = { s with cw := t.cw, sw := t.sw, pending := t.pending, iptr := t.iptr, opc := t.opc, dptr := t.dptr } ∧
      Recorded s t none ∧
      t.sw = { s.sw with ir := t.sw.ir, busy := t.sw.busy } ∧
      (s.conf.busyWhenIem = .hold → t.sw = s.sw ∧ t.pending = s.pending ∧ t.busyLine = s.busyLine) ∧
      ∀ ir, s.conf.busyWhenIem = .release ir → Reacted t
    Completes (exec .fdisi s) (fun t => t.cw = { s.cw with iem := true } ∧
      t.cw.toBits = s.cw.toBits ||| 0x0080#16 ∧ t.intLine = false ∧ Others t) ∧
    Completes (exec .feni s) (fun t => t.cw = { s.cw with iem := false } ∧
      t.cw.toBits = s.cw.toBits &&& 0xFF7F#16 ∧ t.intLine = t.sw.ir ∧ Others t) ∧
    s.cw.toBits.getLsbD 7 = s.cw.iem ∧ ∀ bit6, (s.sw.toBits bit6).getLsbD 7 = s.sw.ir

/-- The exception flags are sticky: no instruction clears one but FCLEX, FINIT and FSAVE, and FLDENV and
FRSTOR, which replace them; and only FLDCW, FLDENV, FRSTOR, FSTENV, FSAVE, FINIT, FDISI and FENI change the
control word (spec/10_state.md sections 4 and 5, spec/46_processor_control.md section 3). -/
def Obligations.FlagAndControlWordWriters : Prop :=
  ∀ (i : Instr) (s t : State), exec i s = .next t → i ≠ .finit →
    (∀ m, i ≠ .fsave m ∧ i ≠ .fldenv m ∧ i ≠ .frstor m) →
    (i ≠ .fclex → ∃ raised : ExcSet, t.sw.ex = s.sw.ex.union raised) ∧
    (i ≠ .fdisi → i ≠ .feni → (∀ m, i ≠ .fldcw m ∧ i ≠ .fstenv m) → t.cw = s.cw)

/-- An instruction that stores nothing leaves every byte of memory; one that stores leaves every byte
outside its operand, at the address computed by the CPU and as long as the spec says
(spec/20_memory.md sections 1 and 4). -/
def Obligations.OnlyTheOperandIsStored : Prop :=
  ∀ (i : Instr) (s t : State), s.Inv → exec i s = .next t →
    (isStore i = false → MemoryKept s t) ∧
    ∀ m, i.memOp? = some m →
      ∀ x, x < (s.ea m).toNat ∨ (s.ea m).toNat + operandBytes i ≤ x → t.mem.read x = s.mem.read x

/-- The exception pointers: an instruction in `ptr_update_set`, which may hold any form of the NDP, records its
address and opcode, and the address of its memory operand if it has one; FLDENV and FRSTOR load them; FWAIT and
a reserved opcode that does nothing change none, and nor does an instruction outside the set. By the recommended
setting every numeric instruction, FNOP, FFREE, FINCSTP and FDECSTP are in the set, and FINIT, FCLEX, FENI,
FDISI, FLDCW, FSTCW, FSTSW, FSTENV, FLDENV, FSAVE and FRSTOR are not; a reserved opcode that is an alias counts
as the instruction it stands for (spec/10_state.md section 7; which instructions record is the model's choice,
log 18, and what an alias does is log 20). -/
def Obligations.ExceptionPointerWriters : Prop :=
  (∀ (i : Instr) (s t : State), exec i s = .next t → (∀ m, i ≠ .fldenv m ∧ i ≠ .frstor m) →
    if executorOf i ≠ .nobody ∧ s.recordsPointers = true then
      t.iptr = s.port.ia ∧ t.opc = s.port.op ∧ t.dptr = (i.memOp?.map s.ea).getD s.dptr
    else t.iptr = s.iptr ∧ t.opc = s.opc ∧ t.dptr = s.dptr) ∧
  ∀ (i k : Instr) (s : State), i.wf = true → s.port.op = opcode11 (encode i) → s.conf.resolve i = some k →
    (s.recordsPointers = false ↔ ∃ x ∈ s.conf.ptrKeep, opcode11 (encode k) &&& x.1 = x.2) ∧
    (s.conf.ptrKeep = Settings.recommended.ptrKeep →
      (executorOf k = .neu → s.recordsPointers = true) ∧
      (executorOf k = .control ∨ executorOf k = .queued ∨ executorOf k = .loader → s.recordsPointers = false))

/-- The condition code stays through FNOP and the processor-control instructions, but for FLDENV and
FRSTOR, which load it, and FINIT and FSAVE (spec/92_eei_decisions.md Part 2, D11). That FFREE, FINCSTP and
FDECSTP, which the NEU executes, keep it too is the model's choice (log 19). -/
def Obligations.ConditionCodeKeptByControl : Prop :=
  ∀ (i : Instr) (s t : State), exec i s = .next t →
    i ∈ [Instr.fnop, .fincstp, .fdecstp, .fdisi, .feni, .fclex, .fwait] ∨
      (∃ k, i = .ffree k) ∨ (∃ m, i = .fldcw m ∨ i = .fstcw m ∨ i = .fstsw m ∨ i = .fstenv m) →
    t.sw.code = s.sw.code

/-- An unmasked I, D or Z abandons the instruction: where an instruction of the NEU leaves one of them
flagged and unmasked, and none was before it, no register, tag, TOP or byte of memory has changed; of a
store, an unmasked overflow or underflow does the same; and the NDP stops, under the setting `release` only
while IEM is 0 (spec/60_exceptions.md section 2). That such an exception is flagged at all, and which are, the
statements of the instructions say, by `Abandoned`. -/
def Obligations.UnmaskedExceptionAbandons : Prop :=
  ∀ (i : Instr) (s t : State), executorOf i = .neu → exec i s = .next t →
    s.sw.ex.unmasked s.cw.masks = false →
    (if isStore i then ({ t.sw.ex with p := false } : ExcSet)
      else { t.sw.ex with o := false, u := false, p := false }).unmasked t.cw.masks = true →
    StackKept s t ∧ MemoryKept s t ∧ (t.conf.busyWhenIem = .hold ∨ t.cw.iem = false → t.pending = true)

/-- Every instruction completes from every state where its memory operand, if it has one, ends at or below
FFFFFH, lies in the allocated memory and, if it is stored to, outside the program; FWAIT where no exception
is pending. With an operand past FFFFFH or outside the allocated memory it faults; a store into the program
is refused, unless an unmasked exception, which it flags, suppresses it (the stops are logs 6, 8 and 44). -/
def Obligations.EveryInstructionCompletes : Prop :=
  ∀ (i : Instr) (s : State), (i = .fwait → s.pending = false) →
    ((∀ m, i.memOp? = some m → s.Fits m (operandBytes i) ∧ (isStore i = true → s.Writable m (operandBytes i))) →
      ∃ t, exec i s = .next t) ∧
    ∀ m, i.memOp? = some m →
      ((s.ea m).toNat + operandBytes i > 2 ^ 20 → exec i s = .fault (.operandPastTop (s.ea m))) ∧
      ((s.ea m).toNat + operandBytes i ≤ 2 ^ 20 → ¬ s.Fits m (operandBytes i) →
        ∃ x, x ∈ addresses (s.ea m).toNat (operandBytes i) ∧ s.allocated x = false ∧
          exec i s = .fault (.unallocated x)) ∧
      (s.Fits m (operandBytes i) → isStore i = true → ¬ s.Writable m (operandBytes i) →
        (∃ x, x ∈ addresses (s.ea m).toNat (operandBytes i) ∧ s.isProgram x = true ∧
          exec i s = .refused (.storeIntoProgram x)) ∨
        (executorOf i = .neu ∧ ∃ raised : ExcSet, ExcSet.unmasked { raised with p := false } s.cw.masks = true ∧
          Completes (exec i s) fun t => Abandoned s t (some (s.ea m)) raised))

/-! ### Data transfer and constants -/

/-- FLDZ, FLD1, FLDPI, FLDL2T, FLDL2E, FLDLG2 and FLDLN2 push their constant, exactly, where the register
below the top is empty; the tag of FLDZ's zero is zero, that of the others valid, as every value gets its tag:
zero a true zero, special an infinity, a NAN and a denormal, valid every number with another exponent. The five irrational constants are settings of the machine, recommended as the
nearest patterns (log 21) and never further than one unit in the last place from the exact value
(spec/45_constant.md, spec/10_state.md section 6). -/
def Obligations.ConstantsArePushed : Prop :=
  (∀ (s : State) (i : Instr) (c : TReal),
    (i, c) ∈ [(.fldz, 0x00000000000000000000#80), (.fld1, 0x3FFF8000000000000000#80),
      (.fldpi, s.conf.cPi), (.fldl2t, s.conf.cL2t), (.fldl2e, s.conf.cL2e), (.fldlg2, s.conf.cLg2),
      (.fldln2, s.conf.cLn2)] →
    s.pushFull = false →
    Completes (exec i s) fun t => Ran s t none .none ∧ Pushed s t c ∧ MemoryKept s t ∧
      (i = .fldz → t.stTag 0 = .zero) ∧ (i ≠ .fldz → s.Inv → t.stTag 0 = .valid)) ∧
  (∀ v : TReal,
    (expOf v = 0 → sigOf v = 0 → tagOf v = .zero) ∧
    (expOf v = 0 → 0 < sigOf v → sigOf v < 2 ^ 63 → tagOf v = .special) ∧
    (expOf v = 0x7FFF → 2 ^ 63 ≤ sigOf v → tagOf v = .special) ∧
    (0 < expOf v → expOf v < 0x7FFF → tagOf v = .valid)) ∧
  ∀ s : State, s.Inv →
    (s.conf.cPi = 0x4000C90FDAA22168C234#80 ∨ s.conf.cPi = 0x4000C90FDAA22168C235#80) ∧
    (s.conf.cL2t = 0x4000D49A784BCD1B8AFE#80 ∨ s.conf.cL2t = 0x4000D49A784BCD1B8AFF#80) ∧
    (s.conf.cL2e = 0x3FFFB8AA3B295C17F0BB#80 ∨ s.conf.cL2e = 0x3FFFB8AA3B295C17F0BC#80) ∧
    (s.conf.cLg2 = 0x3FFD9A209A84FBCFF798#80 ∨ s.conf.cLg2 = 0x3FFD9A209A84FBCFF799#80) ∧
    (s.conf.cLn2 = 0x3FFEB17217F7D1CF79AB#80 ∨ s.conf.cLn2 = 0x3FFEB17217F7D1CF79AC#80)

/-- Stack overflow: where the register below the top is not empty, a push with I masked flags I and pushes
the indefinite over it, and FXTRACT and FPTAN make the old top the indefinite too; with I unmasked it flags
I and changes nothing. A memory load that met a denormal as well flags D where I is masked, and is
abandoned where D is not (spec/60_exceptions.md section 3; that the stack fault comes first and D is examined
only after it is section 4, R489, by decision D23, log 40). -/
def Obligations.PushOntoFullRegister : Prop :=
  (∀ (s : State) (i : Instr),
    i ∈ [Instr.fldz, .fld1, .fldpi, .fldl2t, .fldl2e, .fldlg2, .fldln2] ∨ (∃ k, i = .fldSti k) →
    s.pushFull = true →
    Completes (exec i s) fun t => Ran s t none .onlyI ∧ MemoryKept s t ∧
      if s.cw.masks.i then Pushed s t 0xFFFFC000000000000000#80 else StackKept s t) ∧
  (∀ (s : State) (m : MemOp) (i : Instr) (n : Nat) (d : Bool),
    let a := (s.ea m).toNat
    (i, n, d) ∈ [(.fldM32 m, 4, (cvtReal .short (s.mem.readLE a 4)).d),
      (.fldM64 m, 8, (cvtReal .long (s.mem.readLE a 8)).d),
      (.fldM80 m, 10, decide (classOf (BitVec.ofNat 80 (s.mem.readLE a 10)) = .denormal)),
      (.fildM16 m, 2, false), (.fildM32 m, 4, false), (.fildM64 m, 8, false), (.fbld m, 10, false)] →
    s.Fits m n → s.pushFull = true →
    Completes (exec i s) fun t => MemoryKept s t ∧
      if s.cw.masks.i then
        Ran s t (some (s.ea m)) { ExcSet.onlyI with d := d } ∧
        if d && !s.cw.masks.d then StackKept s t else Pushed s t 0xFFFFC000000000000000#80
      else Ran s t (some (s.ea m)) .onlyI ∧ StackKept s t) ∧
  ∀ (s : State) (i : Instr), i ∈ [Instr.fxtract, .fptan] → s.isEmpty 0 = false → s.pushFull = true →
    Completes (exec i s) fun t => Ran s t none .onlyI ∧ MemoryKept s t ∧
      if s.cw.masks.i then t.sw.top = s.sw.top - 1 ∧
        (∀ p, t.reg p = if p = s.sw.top ∨ p = s.sw.top - 1 then 0xFFFFC000000000000000#80 else s.reg p) ∧
        ∀ p, t.tag p = if p = s.sw.top ∨ p = s.sw.top - 1 then .special else s.tag p
      else StackKept s t

/-- FLD of a short, long or temporary real, and FILD of a word, short or long integer: the operand is
converted and pushed; a denormal signals D. FBLD: eighteen valid digits are pushed as the integer they are,
with the operand's sign; with an invalid digit the push still happens, of a value and a non-empty tag of
which nothing is known. An unmasked D is flagged and abandons the load. The register below the top is empty
(spec/41_data_transfer.md, spec/60_exceptions.md section 2, spec/93_implementation_defined.md Part A). -/
def Obligations.MemoryLoadsArePushed : Prop :=
  (∀ (s : State) (m : MemOp) (i : Instr) (n : Nat) (c : Converted),
    let a := (s.ea m).toNat
    (i, n, c) ∈ [
      (.fldM32 m, 4, cvtReal .short (s.mem.readLE a 4)),
      (.fldM64 m, 8, cvtReal .long (s.mem.readLE a 8)),
      (.fldM80 m, 10, ⟨decide (classOf (BitVec.ofNat 80 (s.mem.readLE a 10)) = .denormal),
        BitVec.ofNat 80 (s.mem.readLE a 10)⟩),
      (.fildM16 m, 2, ⟨false, cvtInt (IntFmt.word.toInt (s.mem.readLE a 2))⟩),
      (.fildM32 m, 4, ⟨false, cvtInt (IntFmt.short.toInt (s.mem.readLE a 4))⟩),
      (.fildM64 m, 8, ⟨false, cvtInt (IntFmt.long.toInt (s.mem.readLE a 8))⟩)] →
    s.Fits m n → s.pushFull = false →
    Completes (exec i s) fun t =>
      if c.d && !s.cw.masks.d then Abandoned s t (some (s.ea m)) .onlyD
      else Ran s t (some (s.ea m)) { ExcSet.none with d := c.d } ∧ Pushed s t c.value ∧ MemoryKept s t) ∧
  ∀ (s : State) (m : MemOp), s.Fits m 10 → s.pushFull = false →
    let w := s.mem.readLE (s.ea m).toNat 10
    Completes (exec (.fbld m) s) fun t =>
      Ran s t (some (s.ea m)) .none ∧ MemoryKept s t ∧
      if bcdValid w 18 then Pushed s t (cvtBcd w)
      else t.sw.top = s.sw.top - 1 ∧ t.tag (s.sw.top - 1) ≠ .empty ∧
        ∀ p, p ≠ s.sw.top - 1 → t.reg p = s.reg p ∧ t.tag p = s.tag p

/-- FLD ST(i) pushes the bits of ST(i); FST ST(i) and FSTP ST(i) copy the top's bits and tag to ST(i), and
FSTP then pops; FXCH exchanges bits and tags. An empty register that is read counts as the indefinite and
flags I; with I unmasked nothing but the flag changes then (spec/41_data_transfer.md). -/
def Obligations.RegisterTransfers : Prop :=
  ∀ (s : State) (k : BitVec 3),
    let indef := 0xFFFFC000000000000000#80
    let bits (j : BitVec 3) := if s.isEmpty j then indef else s.reg (s.sw.top + j)
    let tag (j : BitVec 3) := if s.isEmpty j then .special else s.tag (s.sw.top + j)
    (s.pushFull = false →
      Completes (exec (.fldSti k) s) fun t => Ran s t none (.invalidIf (s.isEmpty k)) ∧ MemoryKept s t ∧
        if s.isEmpty k && !s.cw.masks.i then StackKept s t else Pushed s t (bits k)) ∧
    (∀ i pop, (i, pop) ∈ [(Instr.fstSti k, false), (.fstpSti k, true)] →
      Completes (exec i s) fun t => Ran s t none (.invalidIf (s.isEmpty 0)) ∧ MemoryKept s t ∧
        if s.isEmpty 0 && !s.cw.masks.i then StackKept s t
        else t.sw.top = (if pop then s.sw.top + 1 else s.sw.top) ∧
          (∀ p, t.reg p = if p = s.sw.top + k then bits 0 else s.reg p) ∧
          ∀ p, t.tag p = if pop = true ∧ p = s.sw.top then .empty
            else if p = s.sw.top + k then tag 0 else s.tag p) ∧
    Completes (exec (.fxch k) s) fun t =>
      Ran s t none (.invalidIf (s.isEmpty 0 || s.isEmpty k)) ∧ MemoryKept s t ∧
      if (s.isEmpty 0 || s.isEmpty k) && !s.cw.masks.i then StackKept s t
      else t.sw.top = s.sw.top ∧
        (∀ p, t.reg p = if p = s.sw.top then bits k
          else if p = s.sw.top + k then bits 0 else s.reg p) ∧
        ∀ p, t.tag p = if p = s.sw.top then tag k
          else if p = s.sw.top + k then tag 0 else s.tag p

/-- The stores FST, FSTP, FIST, FISTP and FBSTP to memory: the top is converted and stored at the operand's
address, in as many bytes as the form has, and the popping forms pop. An unmasked I or D of the operand, or an
unmasked O or U of the conversion, is flagged and suppresses the store and the pop. The top is not empty
(spec/41_data_transfer.md, spec/60_exceptions.md section 2; the flags beside the unmasked one are decision D23,
log 40). -/
def Obligations.StoresWriteConvertedTop : Prop :=
  ∀ (s : State) (m : MemOp) (i : Instr) (n : Nat) (x : Stored) (pop : Bool),
    (i, n, x, pop) ∈ [
      (.fstM32 m, 4, toReal s.cw .short (s.num 0), false),
      (.fstM64 m, 8, toReal s.cw .long (s.num 0), false),
      (.fstpM32 m, 4, toReal s.cw .short (s.num 0), true),
      (.fstpM64 m, 8, toReal s.cw .long (s.num 0), true),
      (.fstpM80 m, 10, ⟨.none, .none, (s.st 0).toNat⟩, true),
      (.fistM16 m, 2, toInt s.cw .word (s.num 0), false),
      (.fistM32 m, 4, toInt s.cw .short (s.num 0), false),
      (.fistpM16 m, 2, toInt s.cw .word (s.num 0), true),
      (.fistpM32 m, 4, toInt s.cw .short (s.num 0), true),
      (.fistpM64 m, 8, toInt s.cw .long (s.num 0), true),
      (.fbstp m, 10, toBcd s.cw s.draws (s.num 0), true)] →
    s.Inv → s.Fits m n → s.isEmpty 0 = false →
    let late := { x.after with p := false }
    (Proceeds s x.before → late.unmasked s.cw.masks = false → s.Writable m n →
      Completes (exec i s) fun t =>
        Ran s t (some (s.ea m)) (x.before.union x.after) ∧
        MemoryStored s t (s.ea m).toNat n x.bits ∧ Popped s t (if pop then 1 else 0)) ∧
    (Proceeds s x.before → late.unmasked s.cw.masks = true →
      Completes (exec i s) fun t => Abandoned s t (some (s.ea m)) (x.before.union late)) ∧
    (¬ Proceeds s x.before →
      Completes (exec i s) fun t => Abandoned s t (some (s.ea m)) (x.before.upTo s.cw.masks))

/-- A store of an empty top, with I masked, stores the indefinite of its format, flags I, and pops where
the form pops; with I unmasked it flags I and stores and pops nothing (spec/60_exceptions.md sections 2 and 3; of the
packed decimal only the two top bytes are known). -/
def Obligations.EmptyTopStoresIndefinite : Prop :=
  ∀ (s : State) (m : MemOp), s.Inv → s.isEmpty 0 = true →
    (∀ (i : Instr) (n w : Nat) (pop : Bool),
      (i, n, w, pop) ∈ [
        (.fstM32 m, 4, 0xFFC00000, false), (.fstM64 m, 8, 0xFFF8000000000000, false),
        (.fstpM32 m, 4, 0xFFC00000, true), (.fstpM64 m, 8, 0xFFF8000000000000, true),
        (.fstpM80 m, 10, 0xFFFFC000000000000000, true),
        (.fistM16 m, 2, 0x8000, false), (.fistM32 m, 4, 0x80000000, false),
        (.fistpM16 m, 2, 0x8000, true), (.fistpM32 m, 4, 0x80000000, true),
        (.fistpM64 m, 8, 0x8000000000000000, true)] →
      s.Fits m n →
      (s.cw.masks.i = true → s.Writable m n → Completes (exec i s) fun t => Ran s t (some (s.ea m)) .onlyI ∧
        MemoryStored s t (s.ea m).toNat n w ∧ Popped s t (if pop then 1 else 0)) ∧
      (s.cw.masks.i = false → Completes (exec i s) fun t => Abandoned s t (some (s.ea m)) .onlyI)) ∧
    (s.Fits m 10 → s.cw.masks.i = false →
      Completes (exec (.fbstp m) s) fun t => Abandoned s t (some (s.ea m)) .onlyI) ∧
    (s.Fits m 10 → s.cw.masks.i = true → s.Writable m 10 →
      Completes (exec (.fbstp m) s) fun t => Ran s t (some (s.ea m)) .onlyI ∧
        t.mem.read ((s.ea m).toNat + 9) = 0xFF ∧ t.mem.read ((s.ea m).toNat + 8) = 0xFF ∧
        (∀ x, x < (s.ea m).toNat ∨ (s.ea m).toNat + 10 ≤ x → t.mem.read x = s.mem.read x) ∧
        Popped s t 1)

/-! ### Arithmetic -/

/-- The eighteen register forms of the six basic operations: destination and source as the form names them,
the result with its tag in the destination, then the pop. An unmasked I, D or Z is flagged and abandons the
instruction; with an unmasked O, U or P the result is delivered all the same. Both registers are not empty
(spec/42_arithmetic.md section 1, spec/60_exceptions.md section 2; the flags beside the unmasked one are decision
D23, log 40). -/
def Obligations.RegisterArithmetic : Prop :=
  ∀ (s : State) (k : BitVec 3) (i : Instr) (list : ExcSet) (op : BasicOp) (rev : Bool) (d src : BitVec 3)
    (pop : Bool),
    (i, list, op, rev, d, src, pop) ∈ [
      (.faddSt k, listReal, .add, false, 0, k, false), (.faddSti k, listReal, .add, false, k, 0, false),
      (.faddp k, listReal, .add, false, k, 0, true),
      (.fsubSt k, listReal, .sub, false, 0, k, false), (.fsubSti k, listReal, .sub, false, k, 0, false),
      (.fsubp k, listReal, .sub, false, k, 0, true),
      (.fsubrSt k, listReal, .sub, true, 0, k, false), (.fsubrSti k, listReal, .sub, true, k, 0, false),
      (.fsubrp k, listReal, .sub, true, k, 0, true),
      (.fmulSt k, listReal, .mul, false, 0, k, false), (.fmulSti k, listReal, .mul, false, k, 0, false),
      (.fmulp k, listReal, .mul, false, k, 0, true),
      (.fdivSt k, listDiv, .div, false, 0, k, false), (.fdivSti k, listDiv, .div, false, k, 0, false),
      (.fdivp k, listDiv, .div, false, k, 0, true),
      (.fdivrSt k, listDiv, .div, true, 0, k, false), (.fdivrSti k, listDiv, .div, true, k, 0, false),
      (.fdivrp k, listDiv, .div, true, k, 0, true)] →
    s.isEmpty d = false → s.isEmpty src = false →
    let c := arith list s.cw s.draws op rev (s.num d) (s.num src)
    (Proceeds s c.before → Completes (exec i s) fun t =>
      Ran s t none (c.before.union c.after) ∧ DeliveredTo s t d c.value pop ∧ MemoryKept s t) ∧
    (¬ Proceeds s c.before → Completes (exec i s) fun t => Abandoned s t none (c.before.upTo s.cw.masks))

/-- The memory forms of the six basic operations: the operand is converted to temporary real, a denormal
signalling D, and the result goes to ST. An unmasked I, D or Z is flagged and abandons the instruction. ST is not
empty (spec/42_arithmetic.md section 1, spec/60_exceptions.md section 2; the flags beside the unmasked one are
decision D23, log 40). -/
def Obligations.MemoryArithmetic : Prop :=
  ∀ (s : State) (m : MemOp) (i : Instr) (n : Nat) (v : Converted) (list : ExcSet) (op : BasicOp) (rev : Bool),
    let a := (s.ea m).toNat
    let r4 := cvtReal .short (s.mem.readLE a 4)
    let r8 := cvtReal .long (s.mem.readLE a 8)
    let i2 : Converted := ⟨false, cvtInt (IntFmt.word.toInt (s.mem.readLE a 2))⟩
    let i4 : Converted := ⟨false, cvtInt (IntFmt.short.toInt (s.mem.readLE a 4))⟩
    (i, n, v, list, op, rev) ∈ [
      (.faddM32 m, 4, r4, listReal, .add, false), (.faddM64 m, 8, r8, listReal, .add, false),
      (.fiaddM16 m, 2, i2, listInt, .add, false), (.fiaddM32 m, 4, i4, listInt, .add, false),
      (.fsubM32 m, 4, r4, listReal, .sub, false), (.fsubM64 m, 8, r8, listReal, .sub, false),
      (.fisubM16 m, 2, i2, listInt, .sub, false), (.fisubM32 m, 4, i4, listInt, .sub, false),
      (.fsubrM32 m, 4, r4, listReal, .sub, true), (.fsubrM64 m, 8, r8, listReal, .sub, true),
      (.fisubrM16 m, 2, i2, listInt, .sub, true), (.fisubrM32 m, 4, i4, listInt, .sub, true),
      (.fmulM32 m, 4, r4, listReal, .mul, false), (.fmulM64 m, 8, r8, listReal, .mul, false),
      (.fimulM16 m, 2, i2, listInt, .mul, false), (.fimulM32 m, 4, i4, listInt, .mul, false),
      (.fdivM32 m, 4, r4, listDiv, .div, false), (.fdivM64 m, 8, r8, listDiv, .div, false),
      (.fidivM16 m, 2, i2, listDiv, .div, false), (.fidivM32 m, 4, i4, listDiv, .div, false),
      (.fdivrM32 m, 4, r4, listDiv, .div, true), (.fdivrM64 m, 8, r8, listDiv, .div, true),
      (.fidivrM16 m, 2, i2, listDiv, .div, true), (.fidivrM32 m, 4, i4, listDiv, .div, true)] →
    s.Fits m n → s.isEmpty 0 = false →
    let c := (arith list s.cw s.draws op rev (s.num 0) v.value).withD v.d
    (Proceeds s c.before → Completes (exec i s) fun t =>
      Ran s t (some (s.ea m)) (c.before.union c.after) ∧ DeliveredTo s t 0 c.value false ∧ MemoryKept s t) ∧
    (¬ Proceeds s c.before → Completes (exec i s) fun t => Abandoned s t (some (s.ea m)) (c.before.upTo s.cw.masks))

/-- FSQRT, FSCALE and FRNDINT: the result with its tag in ST; ST(1), FSCALE's scale factor, is unchanged.
An unmasked I or D is flagged and abandons the instruction. The registers read are not empty. The results: FSQRT gives a zero, a NAN (with
I) or the affine plus infinity back, the indefinite with I for other negative numbers and infinities, never
O or U; FSCALE gives ST times 2 to the scale factor chopped to an integer, where that factor is in range, exactly, or
where the product overflows or underflows what the delivery of a 64-bit result makes of it, P apart (log 29), up to
where the adjustment by 24,576 does not suffice (log 28); of a factor out of range nothing is known but that there is
no exception; FRNDINT gives ST rounded to an integer by the control,
with the sign of ST, P exactly when they differ. A denormal or unnormal operand with D unmasked signals D and
no more (spec/42_arithmetic.md section 2, spec/40_numerics.md section 8; that a NAN in either register of
FSCALE is invalid is log 27; that an unnormal or pseudo-zero scale factor in range signals D, and any denormal operand
beside a NAN, is log 23; the flags beside the unmasked one are decision D23, log 40; that zeros and infinities are given back under the reserved precision control too is log 31). -/
def Obligations.RootScaleAndRound : Prop :=
  (∀ (s : State) (i : Instr) (c : Computed),
    (i, c) ∈ [(.fsqrt, sqrtOf s.cw s.draws (s.num 0)),
      (.fscale, scaleOf s.cw s.draws (s.num 0) (s.num 1)), (.frndint, rndintOf s.cw (s.num 0))] →
    s.isEmpty 0 = false → (i = .fscale → s.isEmpty 1 = false) →
    (Proceeds s c.before → Completes (exec i s) fun t =>
      Ran s t none (c.before.union c.after) ∧ DeliveredTo s t 0 c.value false ∧ MemoryKept s t) ∧
    (¬ Proceeds s c.before → Completes (exec i s) fun t => Abandoned s t none (c.before.upTo s.cw.masks))) ∧
  (∀ (cw : Control) (k : Nat) (a : TReal), let c := sqrtOf cw k a
    c.after.o = false ∧ c.after.u = false ∧
    (classOf a = .nan → c = ⟨.onlyI, .none, a⟩) ∧ (classOf a = .zero → c = ⟨.none, .none, a⟩) ∧
    (classOf a = .infinity → c = if cw.ic = true ∧ signOf a = false then ⟨.none, .none, a⟩
      else ⟨.onlyI, .none, indefinite⟩) ∧
    (classOf a = .normal → signOf a = true → c = ⟨.onlyI, .none, indefinite⟩)) ∧
  (∀ (cw : Control) (k : Nat) (a x : TReal), let c := scaleOf cw k a x
    (classOf a = .nan ∨ classOf x = .nan →
      let denormal := (classOf a).denormalOperand || (classOf x).denormalOperand
      c = ⟨{ ExcSet.onlyI with d := denormal && !cw.masks.d }, .none, nanOf a x⟩) ∧
    (classOf a ≠ .nan → classOf x = .normal →
      valueOf x < -2 ^ 15 ∨ 2 ^ 15 ≤ valueOf x ∨ |valueOf x| < 1 → c.before = .none ∧ c.after = .none) ∧
    ∀ n : ℤ, RoundsTo 3 (valueOf x) n → -2 ^ 15 ≤ valueOf x → valueOf x < 2 ^ 15 →
      classOf x = .zero ∨ (classOf x = .normal ∧ 1 ≤ |valueOf x|) →
      (classOf a = .zero → c = ⟨.none, .none, a⟩) ∧
      (classOf a = .normal → c.before = .none ∧
        (-16382 ≤ (valOf a).exponent + n → (valOf a).exponent + n ≤ 16383 →
          c.after = .none ∧ classOf c.value = .normal ∧ valueOf c.value = valueOf a * 2 ^ n) ∧
        (16383 < (valOf a).exponent + n → c.after.o = true ∧ c.after.u = false) ∧
        ((valOf a).exponent + n < -16382 → c.after.u = true ∧ c.after.o = false) ∧
        ∃ x : Mag, x.sticky = false ∧ (x.n : ℚ) * 2 ^ x.e = |valueOf a| * 2 ^ n ∧
          let d := deliver cw .p64 k (signOf a) x
          c.after = { d.ex with p := c.after.p } ∧ (d.ex.p = false → c.after.p = false) ∧
          ((cw.masks.o = true ∨ (valOf a).exponent + n ≤ 16383 + 24576) →
            (cw.masks.u = true ∨ -16382 - 24576 ≤ (valOf a).exponent + n) → c.value = d.value))) ∧
  (∀ (cw : Control) (k : Nat) (a x : TReal), cw.masks.d = false →
    ((classOf a).denormalOperand = true →
      (sqrtOf cw k a).before = .onlyD ∧ (rndintOf cw a).before = .onlyD ∧
      (classOf x = .zero ∨ (classOf x = .normal ∧ 1 ≤ |valueOf x| ∧ -2 ^ 15 ≤ valueOf x ∧ valueOf x < 2 ^ 15) →
        (scaleOf cw k a x).before = .onlyD)) ∧
    (classOf x = .unnormal ∨ classOf x = .pseudoZero → classOf a ≠ .nan →
      valueOf x = 0 ∨ (1 ≤ |valueOf x| ∧ -2 ^ 15 ≤ valueOf x ∧ valueOf x < 2 ^ 15) →
      (scaleOf cw k a x).before = .onlyD)) ∧
  ∀ (cw : Control) (a : TReal), let c := rndintOf cw a
    (classOf a = .nan → c = ⟨.onlyI, .none, a⟩) ∧ (classOf a = .infinity → c = ⟨.none, .none, a⟩) ∧
    (classOf a = .zero ∨ classOf a = .normal → ∃ n : ℤ, RoundsTo cw.rc (valueOf a) n ∧
      c.before = .none ∧ c.after = { ExcSet.none with p := decide ((n : ℚ) ≠ valueOf a) } ∧
      valueOf c.value = n ∧ signOf c.value = signOf a ∧
      (classOf c.value = .zero ∨ classOf c.value = .normal))

/-- An empty operand, with I masked: the destination of a basic operation, also of its memory forms, of
FSQRT, FSCALE, FPREM, FRNDINT and of the transcendental functions becomes the indefinite, tagged special;
FXTRACT and FPTAN push an indefinite beside it, FXTRACT only on an empty register; I is flagged, and the
pop is done. With I unmasked each of them flags I alone and is abandoned; so is a memory form that met an unmasked
D beside a masked I, with both flagged (spec/60_exceptions.md sections 2 to 4, spec/44_transcendental.md section 1;
the detection order is decision D23, log 40; of the transcendental
functions it is decision D19, log 34; that FPTAN on an empty ST pushes also where the slot is full is inferred,
log 41). -/
def Obligations.EmptyOperandGivesIndefinite : Prop :=
  (∀ (s : State) (k : BitVec 3) (i : Instr) (d : BitVec 3) (pop : Bool),
    (i, d, pop) ∈ [(.faddSt k, 0, false), (.fsubSt k, 0, false), (.fsubrSt k, 0, false), (.fmulSt k, 0, false),
        (.fdivSt k, 0, false), (.fdivrSt k, 0, false), (.faddSti k, k, false), (.fsubSti k, k, false),
        (.fsubrSti k, k, false), (.fmulSti k, k, false), (.fdivSti k, k, false), (.fdivrSti k, k, false),
        (.faddp k, k, true), (.fsubp k, k, true), (.fsubrp k, k, true), (.fmulp k, k, true),
        (.fdivp k, k, true), (.fdivrp k, k, true)] ∧ (s.isEmpty 0 = true ∨ s.isEmpty k = true) ∨
      (i, d, pop) ∈ [(.fsqrt, 0, false), (.frndint, 0, false), (.f2xm1, 0, false)] ∧ s.isEmpty 0 = true ∨
      (i, d, pop) ∈ [(.fscale, 0, false), (.fprem, 0, false), (.fpatan, 1, true), (.fyl2x, 1, true),
        (.fyl2xp1, 1, true)] ∧ (s.isEmpty 0 = true ∨ s.isEmpty 1 = true) →
    (s.cw.masks.i = false → Completes (exec i s) fun t => Abandoned s t none .onlyI) ∧
    (s.cw.masks.i = true → Completes (exec i s) fun t =>
      Ran s t none .onlyI ∧ DeliveredTo s t d 0xFFFFC000000000000000#80 pop ∧
      t.tag (s.sw.top + d) = (if pop = true ∧ d = 0 then .empty else .special) ∧ MemoryKept s t)) ∧
  (∀ (s : State) (m : MemOp) (i : Instr) (n : Nat) (d : Bool),
    let a := (s.ea m).toNat
    let d4 := (cvtReal .short (s.mem.readLE a 4)).d
    let d8 := (cvtReal .long (s.mem.readLE a 8)).d
    (i, n, d) ∈ [
      (.faddM32 m, 4, d4), (.fsubM32 m, 4, d4), (.fsubrM32 m, 4, d4), (.fmulM32 m, 4, d4), (.fdivM32 m, 4, d4),
      (.fdivrM32 m, 4, d4), (.faddM64 m, 8, d8), (.fsubM64 m, 8, d8), (.fsubrM64 m, 8, d8), (.fmulM64 m, 8, d8),
      (.fdivM64 m, 8, d8), (.fdivrM64 m, 8, d8), (.fiaddM16 m, 2, false), (.fisubM16 m, 2, false),
      (.fisubrM16 m, 2, false), (.fimulM16 m, 2, false), (.fidivM16 m, 2, false), (.fidivrM16 m, 2, false),
      (.fiaddM32 m, 4, false), (.fisubM32 m, 4, false), (.fisubrM32 m, 4, false), (.fimulM32 m, 4, false),
      (.fidivM32 m, 4, false), (.fidivrM32 m, 4, false)] →
    s.Fits m n → s.isEmpty 0 = true →
    Completes (exec i s) fun t =>
      if s.cw.masks.i = false then Abandoned s t (some (s.ea m)) .onlyI
      else if d = true ∧ s.cw.masks.d = false then Abandoned s t (some (s.ea m)) { ExcSet.onlyI with d := true }
      else Ran s t (some (s.ea m)) { ExcSet.onlyI with d := d } ∧
        DeliveredTo s t 0 0xFFFFC000000000000000#80 false ∧ t.tag s.sw.top = .special ∧ MemoryKept s t) ∧
  ∀ (s : State) (i : Instr) (push : Bool), (i, push) ∈ [(.fxtract, !s.pushFull), (.fptan, true)] →
    s.isEmpty 0 = true →
    (s.cw.masks.i = false → Completes (exec i s) fun t => Abandoned s t none .onlyI) ∧
    (s.cw.masks.i = true → Completes (exec i s) fun t => Ran s t none .onlyI ∧ MemoryKept s t ∧
      t.sw.top = (if push then s.sw.top - 1 else s.sw.top) ∧
      (∀ p, t.reg p = if p = s.sw.top ∨ (push = true ∧ p = s.sw.top - 1)
        then 0xFFFFC000000000000000#80 else s.reg p) ∧
      ∀ p, t.tag p = if p = s.sw.top ∨ (push = true ∧ p = s.sw.top - 1) then .special else s.tag p)

/-- FABS clears the sign bit of ST and FCHS complements it; its class, its tag and the other 79 bits stay,
and no exception is raised, whatever they are. An empty ST is an invalid operation: masked, it becomes the
indefinite (spec/42_arithmetic.md R318, R319). -/
def Obligations.SignInstructions : Prop :=
  encode .fabs = [0xD9, 0xE1] ∧ encode .fchs = [0xD9, 0xE0] ∧
  ∀ (s : State) (i : Instr) (neg : Bool),
    (i, neg) ∈ [(.fabs, false), (.fchs, !(s.st 0).getLsbD 79)] →
    (s.isEmpty 0 = false →
      Completes (exec i s) fun t =>
        Raised s t .none ∧ MemoryKept s t ∧ t.sw.top = s.sw.top ∧ (∀ p, t.tag p = s.tag p) ∧
        (∀ p, p ≠ s.sw.top → t.reg p = s.reg p) ∧ classOf (t.st 0) = classOf (s.st 0) ∧
        (t.st 0).getLsbD 79 = neg ∧ (t.st 0).extractLsb' 0 79 = (s.st 0).extractLsb' 0 79) ∧
    (s.isEmpty 0 = true →
      Completes (exec i s) fun t => Raised s t .onlyI ∧ MemoryKept s t ∧
        if s.cw.masks.i then DeliveredTo s t 0 0xFFFFC000000000000000#80 false ∧ t.tag s.sw.top = .special
        else StackKept s t)

/-- FPREM: the result in ST, and the condition code: C2 says whether the reduction is incomplete; C0, C3,
C1 are bits 2, 1, 0 of the quotient. An unmasked I or D is flagged and abandons the instruction. The operands are not
empty (spec/42_arithmetic.md section 2, spec/60_exceptions.md section 2; the flags beside the unmasked one are decision
D23, log 40). -/
def Obligations.PartialRemainder : Prop :=
  ∀ s : State, s.isEmpty 0 = false → s.isEmpty 1 = false →
    let r := premOf s.cw s.draws (s.num 0) (s.num 1)
    (Proceeds s r.result.before → Completes (exec .fprem s) fun t =>
      Ran s t none (r.result.before.union r.result.after) ∧ DeliveredTo s t 0 r.result.value false ∧
      MemoryKept s t ∧ t.sw.c2 = r.partialResult ∧ t.sw.c0 = r.quotient.getLsbD 2 ∧
      t.sw.c3 = r.quotient.getLsbD 1 ∧ t.sw.c1 = r.quotient.getLsbD 0) ∧
    (¬ Proceeds s r.result.before →
      Completes (exec .fprem s) fun t => Abandoned s t none (r.result.before.upTo s.cw.masks))

/-- FPREM's result. Of two normal numbers whose exponents differ by less than 64 it is the dividend less the
chopped quotient times the modulus, smaller than the modulus, and C2 says complete, with the low bits of the
quotient; of exponents further apart it is a partial remainder: some positive number of moduli, at most the
quotient, is taken off, and C2 says incomplete. Either has the dividend's sign and is exact, never with P;
below 2^-16382 it signals U and is delivered exactly, as a denormal, or unmasked with 24,576 added to its
exponent. A NAN, an infinite dividend and a zero modulus are invalid; with an infinite modulus or a zero
dividend ST stays, complete. A denormal or unnormal operand signals D, and with D unmasked no more but the I of a
NAN (spec/42_arithmetic.md section 2, spec/40_numerics.md sections 5 and 8; the properties of the partial
remainder are decision D18). -/
def Obligations.RemainderIsExact : Prop :=
  ∀ (cw : Control) (k : Nat) (a b : TReal),
    let r := premOf cw k a b
    let q : ℤ := ⌊|valueOf a| / |valueOf b|⌋
    let Exactly (x : ℚ) : Prop :=
      r.result.before = .none ∧ r.result.after = { ExcSet.none with u := decide (0 < x ∧ x < 2 ^ (-16382 : ℤ)) } ∧
      signOf r.result.value = signOf a ∧
      |valueOf r.result.value| = if r.result.after.u && !cw.masks.u then x * 2 ^ 24576 else x
    (classOf a = .normal → classOf b = .normal →
      ((valOf a).exponent - (valOf b).exponent < 64 →
        r.partialResult = false ∧ r.quotient = BitVec.ofInt 3 q ∧ |valueOf a| - q * |valueOf b| < |valueOf b| ∧
        Exactly (|valueOf a| - q * |valueOf b|)) ∧
      (64 ≤ (valOf a).exponent - (valOf b).exponent →
        r.partialResult = true ∧ ∃ n : ℤ, 1 ≤ n ∧ n ≤ q ∧ Exactly (|valueOf a| - n * |valueOf b|))) ∧
    ((classOf a).extended = false → (classOf b).extended = false →
      (classOf a = .nan ∨ classOf b = .nan → r.result = ⟨.onlyI, .none, nanOf a b⟩) ∧
      (classOf a ≠ .nan → classOf b ≠ .nan → classOf a = .infinity ∨ classOf b = .zero →
        r.result = ⟨.onlyI, .none, indefinite⟩) ∧
      (classOf a = .zero ∨ classOf a = .normal → classOf b = .infinity ∨ (classOf a = .zero ∧ classOf b = .normal) →
        r = ⟨⟨.none, .none, a⟩, false, 0⟩)) ∧
    ((classOf a).denormalOperand = true ∨ (classOf b).denormalOperand = true →
      r.result.before.d = true ∧ (cw.masks.d = false →
        r.result.before = { ExcSet.onlyD with i := decide (classOf a = .nan ∨ classOf b = .nan) }))

/-- FXTRACT of a normal number: its exponent as a number replaces ST, and the significand, with the
operand's sign and exponent 0, is pushed. A zero gives that zero twice. A NAN is invalid: masked, both are the
indefinite. A denormal or unnormal with D unmasked signals D and changes nothing else. The register below the
top is empty (spec/42_arithmetic.md section 2, spec/40_numerics.md section 8). -/
def Obligations.ExtractSplitsTheNumber : Prop :=
  ∀ s : State, s.isEmpty 0 = false → s.pushFull = false →
    let a := s.num 0
    let e := cvtInt ((expOf a : Int) - 16383)
    let f := pack (signOf a) 0x3FFF (sigOf a)
    let Gives (raised : ExcSet) (v w : TReal) : Prop :=
      Completes (exec .fxtract s) fun t =>
        Ran s t none raised ∧ MemoryKept s t ∧ t.sw.top = s.sw.top - 1 ∧
        (∀ p, t.reg p = if p = s.sw.top - 1 then w else if p = s.sw.top then v else s.reg p) ∧
        ∀ p, t.tag p = if p = s.sw.top - 1 then tagOf w else if p = s.sw.top then tagOf v else s.tag p
    let Stops (raised : ExcSet) : Prop :=
      Completes (exec .fxtract s) fun t => Ran s t none raised ∧ MemoryKept s t ∧ StackKept s t
    (classOf a = .normal → Gives .none e f ∧ tagOf f = .valid ∧
      valueOf e = expOf a - 16383 ∧ valueOf a = valueOf f * 2 ^ ((expOf a : Int) - 16383)) ∧
    (classOf a = .zero → Gives .none a a) ∧
    (classOf a = .nan →
      (s.cw.masks.i = true → Gives .onlyI 0xFFFFC000000000000000#80 0xFFFFC000000000000000#80) ∧
      (s.cw.masks.i = false → Stops .onlyI)) ∧
    ((classOf a).denormalOperand = true → s.cw.masks.d = false → Stops .onlyD)

/-! ### Comparison -/

/-- FCOM, FCOMP, FCOMPP, FICOM, FICOMP and FTST: C3 and C0 as the order of ST and the source says, the
exceptions that the comparison met, and the pops; no register changes. An unmasked I or D is flagged and abandons
the comparison, with no pop (spec/43_comparison.md section 1, spec/60_exceptions.md section 2; the flags beside the
unmasked one are decision D23, log 40). -/
def Obligations.ComparisonsSetTheCode : Prop :=
  ∀ (s : State) (k : BitVec 3) (m : MemOp) (i : Instr) (ea : Option MemOp) (n : Nat) (src : Source) (pops : Nat),
    (i, ea, n, src, pops) ∈ s.comparisons k m →
    (ea = some m → s.Fits m n) →
    let o := s.compareOutcome src
    (Proceeds s o.2 → Completes (exec i s) fun t =>
      Ran s t (ea.map s.ea) o.2 ∧ Popped s t pops ∧ MemoryKept s t ∧
      (t.sw.c3, t.sw.c0) = (match o.1 with
        | .greater => (false, false) | .less => (false, true)
        | .equal => (true, false) | .unordered => (true, true))) ∧
    (¬ Proceeds s o.2 → Completes (exec i s) fun t => Abandoned s t (ea.map s.ea) (o.2.upTo s.cw.masks))

/-- On zeros and normal numbers the comparison is the order of the exact values, the two zeros equal; an
operand that is a NAN, or an infinity under projective control, is unordered; under affine control minus
infinity is less than every zero and normal number, plus infinity greater, and infinities of one sign are
equal. Every comparison that meets a denormal in memory, or whose ST or source is a denormal or unnormal, and none a
NAN or infinity, signals D; unmasked, it is abandoned and nothing is popped (spec/40_numerics.md sections 3, 7 and 8,
spec/43_comparison.md section 1). -/
def Obligations.ComparisonIsByValue : Prop :=
  (∀ (s : State) (k : BitVec 3) (m : MemOp) (i : Instr) (ea : Option MemOp) (n : Nat) (src : Source) (pops : Nat)
      (b : TReal),
    (i, ea, n, src, pops) ∈ s.comparisons k m → (ea = some m → s.Fits m n) →
    s.isEmpty 0 = false → src.value = some b →
    let a := s.num 0
    src.d = true ∨ (classOf a).denormalOperand = true ∨ (classOf b).denormalOperand = true →
    classOf a ≠ .nan → classOf b ≠ .nan → classOf a ≠ .infinity → classOf b ≠ .infinity →
    (s.cw.masks.d = false → Completes (exec i s) fun t => Abandoned s t (ea.map s.ea) .onlyD) ∧
    (s.cw.masks.d = true → s.cw.masks.i = true →
      Completes (exec i s) fun t => t.sw.ex.d = true ∧ Popped s t pops)) ∧
  ∀ (cw : Control) (a b : TReal),
    ((classOf a = .zero ∨ classOf a = .normal) → (classOf b = .zero ∨ classOf b = .normal) →
      (compareReal cw a b = .greater ↔ valueOf b < valueOf a) ∧
      (compareReal cw a b = .less ↔ valueOf a < valueOf b) ∧
      (compareReal cw a b = .equal ↔ valueOf a = valueOf b)) ∧
    (classOf a = .nan ∨ classOf b = .nan ∨
      ((classOf a = .infinity ∨ classOf b = .infinity) ∧ cw.ic = false) →
      compareReal cw a b = .unordered) ∧
    (cw.ic = true → classOf a = .infinity → classOf b = .zero ∨ classOf b = .normal →
      compareReal cw a b = (if signOf a then .less else .greater) ∧
      compareReal cw b a = if signOf a then .greater else .less) ∧
    (cw.ic = true → classOf a = .infinity → classOf b = .infinity →
      compareReal cw a b = if signOf a = signOf b then .equal else if signOf a then .less else .greater)

/-- FXAM: the four bits of Table S-13 for every class of the core domain and the denormals and unnormals,
C1 the sign; an empty register is reported, whatever it holds, and nothing else changes
(spec/43_comparison.md section 2). -/
def Obligations.ExamineReportsTheClass : Prop :=
  ∀ s : State,
    Completes (exec .fxam s) fun t => Ran s t none .none ∧ StackKept s t ∧ MemoryKept s t ∧
      if s.isEmpty 0 then t.sw.c3 = true ∧ t.sw.c0 = true
      else t.sw.c1 = signOf (s.st 0) ∧
        (classOf (s.st 0) ≠ .pseudoSpecial →
          (t.sw.c3, t.sw.c2, t.sw.c0) = (match classOf (s.st 0) with
            | .nan => (false, false, true) | .normal => (false, true, false)
            | .infinity => (false, true, true) | .zero => (true, false, false)
            | .denormal | .pseudoDenormal => (true, true, false)
            | .unnormal | .pseudoZero | .pseudoSpecial => (false, false, false)))

/-! ### Transcendental functions -/

/-- F2XM1, FPATAN, FYL2X and FYL2XP1 on operands in the ranges that the spec states for them: the result,
a normal number or zero with the tag of its content, replaces ST, or ST(1) with a pop; P is flagged unless
the result is exact, and U with P where the result of FPATAN or F2XM1 is tiny (then, with U masked, it may be
a denormal, and with U unmasked it is a positive normal number with 24,576 added to the exponent, that of the
parameter's approximation). FPTAN replaces ST by Y and pushes X, both normal numbers or zeros. The registers read are not
empty, and the product of FYL2X and FYL2XP1 does not come near the ends of the range
(spec/44_transcendental.md; which results are exact or tiny is partly inferred, log 33). -/
def Obligations.TranscendentalsInRange : Prop :=
  ∀ s : State, s.isEmpty 0 = false →
    let x := s.num 0
    let y := s.num 1
    let Finite (v : TReal) : Prop := classOf v = .normal ∨ classOf v = .zero
    let Gives (i : Instr) (d : BitVec 3) (pop : Bool) (P : ExcSet → TReal → Prop) : Prop :=
      Completes (exec i s) fun t => ∃ (after : ExcSet) (v : TReal),
        Ran s t none after ∧ DeliveredTo s t d v pop ∧ MemoryKept s t ∧ P after v
    let Tiny (e : Int) (after : ExcSet) (v : TReal) : Prop := after = { ExcSet.none with u := true, p := true } ∧
      signOf v = false ∧ if s.cw.masks.u then expOf v = 0
        else classOf v = .normal ∧ |((expOf v : Int) - 16383 - 24576) - e| ≤ 1
    (classOf x = .zero → Gives .f2xm1 0 false fun after v => after = .none ∧ classOf v = .zero ∧
      (signOf x = false → signOf v = false)) ∧
    (positiveNormal x = true → valueOf x ≤ 1 / 2 → Gives .f2xm1 0 false fun after v =>
      if f2xm1Tiny x then Tiny (-16383) after v else after = .onlyP ∧ Finite v) ∧
    (s.isEmpty 1 = false →
      (patanInRange y x = true → Gives .fpatan 1 true fun after v =>
        if valueOf y ≤ valueOf x * 2 ^ (-16382 : Int) then
          Tiny ((expOf y : Int) - expOf x - if sigOf y ≤ sigOf x then 1 else 0) after v
        else after = .onlyP ∧ classOf v = .normal ∧ signOf v = false ∧ v.toNat ≤ 0x3FFEC90FDAA22168C234) ∧
      (yl2xInRange y x = true → classOf y = .zero ∨ x = oneReal → Gives .fyl2x 1 true fun after v =>
        after = .none ∧ classOf v = .zero) ∧
      (yl2xInRange y x = true → classOf y = .normal → 65 ≤ expOf y → expOf y ≤ 32751 → x ≠ oneReal →
        Gives .fyl2x 1 true fun after v => Finite v ∧
          after = { ExcSet.none with p := !decide (sigOf x = 2 ^ 63 ∧
            valueOf v = valueOf y * ((expOf x : ℚ) - 16383)) }) ∧
      (yl2xp1InRange y x = true → classOf y = .zero → Gives .fyl2xp1 1 true fun after v =>
        after = .none ∧ classOf v = .zero) ∧
      (yl2xp1InRange y x = true → classOf y = .normal → 16384 ≤ expOf y + expOf x →
        Gives .fyl2xp1 1 true fun after v => after = .onlyP ∧ Finite v)) ∧
    (s.pushFull = false → ptanInRange x = true →
      Completes (exec .fptan s) fun t =>
        Ran s t none .onlyP ∧ MemoryKept s t ∧ t.sw.top = s.sw.top - 1 ∧
        Finite (t.st 0) ∧ Finite (t.st 1) ∧
        t.stTag 0 = tagOf (t.st 0) ∧ t.stTag 1 = tagOf (t.st 1) ∧
        ∀ p, p ≠ s.sw.top → p ≠ s.sw.top - 1 → t.reg p = s.reg p ∧ t.tag p = s.tag p)

/-- F2XM1, FPATAN, FYL2X, FYL2XP1 and FPTAN on an operand that is invalid or outside the range that the spec
states, in ST or in ST(1), raise nothing, P included; the pop or push is done, every register they write is
left non-empty, and no other register changes (spec/44_transcendental.md section 1; that no flag at all is
set is the model's choice, log 34). -/
def Obligations.TranscendentalsOnInvalidOperands : Prop :=
  ∀ s : State, s.isEmpty 0 = false →
    let x := s.num 0
    let y := s.num 1
    (∀ (i : Instr) (d : BitVec 3) (pop : Bool),
      (i, d, pop) = (.fpatan, 1, true) ∧ patanInRange y x = false ∨
        (i, d, pop) = (.fyl2x, 1, true) ∧ yl2xInRange y x = false ∨
        (i, d, pop) = (.fyl2xp1, 1, true) ∧ yl2xp1InRange y x = false ∨
        (i, d, pop) = (.f2xm1, 0, false) ∧ classOf x ≠ .zero ∧
          ¬ (positiveNormal x = true ∧ x.toNat ≤ 0x3FFE8000000000000000) →
      (pop = true → s.isEmpty 1 = false) →
      Completes (exec i s) fun t => Ran s t none .none ∧ MemoryKept s t ∧
        t.sw.top = (if pop then s.sw.top + 1 else s.sw.top) ∧ t.tag (s.sw.top + d) ≠ .empty ∧
        (pop = true → t.tag s.sw.top = .empty ∧ t.reg s.sw.top = s.reg s.sw.top) ∧
        ∀ p, p ≠ s.sw.top + d → p ≠ s.sw.top → t.reg p = s.reg p ∧ t.tag p = s.tag p) ∧
    (s.pushFull = false → ptanInRange x = false →
      Completes (exec .fptan s) fun t => Ran s t none .none ∧ MemoryKept s t ∧
        t.sw.top = s.sw.top - 1 ∧ t.stTag 0 ≠ .empty ∧ t.stTag 1 ≠ .empty ∧
        ∀ p, p ≠ s.sw.top → p ≠ s.sw.top - 1 → t.reg p = s.reg p ∧ t.tag p = s.tag p)

/-! ### Processor control -/

/-- FDECSTP moves only TOP, down by one modulo 8, and FFREE makes only the tag of ST(i) empty: no register
content, no other tag, no flag and no byte of memory changes, whatever is empty
(spec/46_processor_control.md R436, R437). -/
def Obligations.DecrementAndFree : Prop :=
  encode .fdecstp = [0xD9, 0xF6] ∧
  (∀ k : BitVec 3, encode (.ffree k) = [0xDD, BitVec.ofNat 8 (0xC0 + k.toNat)]) ∧
  ∀ (s : State),
    Completes (exec .fdecstp s) (fun t => Raised s t .none ∧ MemoryKept s t ∧
      t.sw.top.toNat = (s.sw.top.toNat + 7) % 8 ∧ (∀ p, t.reg p = s.reg p) ∧ ∀ p, t.tag p = s.tag p) ∧
    ∀ k : BitVec 3, Completes (exec (.ffree k) s) fun t => Raised s t .none ∧ MemoryKept s t ∧
      t.sw.top = s.sw.top ∧ (∀ p, t.reg p = s.reg p) ∧
      ∀ p, t.tag p = if p = s.sw.top + k then .empty else s.tag p

/-- FINCSTP moves only TOP, up by one modulo 8, and leaves every tag, that of the old top too; FNOP changes
nothing but the exception pointers, and raises nothing with an empty ST (spec/46_processor_control.md
section 2; of FINCSTP the spec infers it from FDECSTP's rule R436, and the pointers are log 18). -/
def Obligations.IncrementAndNoOperation : Prop :=
  encode .fincstp = [0xD9, 0xF7] ∧ encode .fnop = [0xD9, 0xD0] ∧
  ∀ (s : State),
    Completes (exec .fincstp s) (fun t => Ran s t none .none ∧ MemoryKept s t ∧
      t.sw.top.toNat = (s.sw.top.toNat + 1) % 8 ∧ (∀ p, t.reg p = s.reg p) ∧ ∀ p, t.tag p = s.tag p) ∧
    Completes (exec .fnop s) fun t => Ran s t none .none ∧ MemoryKept s t ∧ StackKept s t ∧
      t.sw.code = s.sw.code

/-- FINIT leaves the values of the reset table and changes no register and no byte of memory; FCLEX clears the
six flags, IR and `pending`, and B where the NEU is idle, and changes nothing else; of both, the exception
pointers stay too, unless a setting puts the instruction into `ptr_update_set`
(spec/46_processor_control.md section 2; the pointers are log 18). -/
def Obligations.InitializeAndClear : Prop :=
  ∀ s : State,
    Completes (exec .finit s) (fun t =>
      t.cw.toBits = 0x03FF ∧ tagWord t.tags = 0xFFFF ∧ t.sw.top = 0 ∧ t.sw.ex = .none ∧ t.sw.ir = false ∧
      t.sw.busy = false ∧ t.neu = none ∧ t.pending = false ∧ t.queued = none ∧ t.busyLine = false ∧
      t.intLine = false ∧ t.regs = s.regs ∧ Recorded s t none ∧
      t.port = s.port ∧ t.inbox = s.inbox ∧ t.mem = s.mem ∧ t.conf = s.conf ∧ t.code = s.code ∧
      t.cpuData = s.cpuData ∧ t.storing = s.storing) ∧
    Completes (exec .fclex s) fun t =>
      t = { s with
        pending := false
        sw := { s.sw with ex := .none, ir := false, busy := s.neu.isSome }
        iptr := t.iptr
        opc := t.opc
        dptr := t.dptr } ∧
      Recorded s t none ∧
      t.intLine = false ∧ t.busyLine = s.neu.isSome

/-- FLDCW loads the control word from the two bytes of its operand, the reserved bits 15:13 and 6 as they are
there under one setting of `cw_reserved_bits`, while nothing is known of them under the other, and the NDP
reacts to it; nothing else changes, but that the exception pointers
record it where the setting puts it into `ptr_update_set` (spec/46_processor_control.md section 2; the
reserved bits are log 16, the pointers log 18). -/
def Obligations.LoadControlWord : Prop :=
  ∀ (s : State) (m : MemOp), s.Fits m 2 →
    let w : BitVec 16 := BitVec.ofNat 16 (s.mem.readLE (s.ea m).toNat 2)
    Completes (exec (.fldcw m) s) fun t =>
      t.cw.ic = w.getLsbD 12 ∧ t.cw.rc = w.extractLsb' 10 2 ∧ t.cw.pc = w.extractLsb' 8 2 ∧
      t.cw.iem = w.getLsbD 7 ∧ t.cw.masks.toBits = w.extractLsb' 0 6 ∧
      (s.conf.cwReserved = .stored → t.cw.toBits = w) ∧
      Reacted t ∧ t.intLine = (t.sw.ir && !w.getLsbD 7) ∧
      t.sw.ex = s.sw.ex ∧ t.sw.code = s.sw.code ∧ t.sw.top = s.sw.top ∧ t.regs = s.regs ∧ t.tags = s.tags ∧
      Recorded s t (some (s.ea m)) ∧ OthersKept s t ∧ t.mem = s.mem

/-- FSTCW and FSTSW store the control word and the status word, of the latter every bit but the reserved
bit 6 being known, at their operand's address; nothing else of the NDP changes, but the exception pointers
where a setting puts the instruction into `ptr_update_set`
(spec/46_processor_control.md section 2; the pointers are log 18). -/
def Obligations.StoreControlAndStatusWord : Prop :=
  ∀ (s : State) (m : MemOp), s.Inv → s.Fits m 2 → s.Writable m 2 →
    Completes (exec (.fstcw m) s) (fun t =>
      MemoryStored s t (s.ea m).toNat 2 s.cw.toBits.toNat ∧ Recorded s t (some (s.ea m)) ∧
      t = { s with mem := t.mem, iptr := t.iptr, opc := t.opc, dptr := t.dptr }) ∧
    Completes (exec (.fstsw m) s) fun t =>
      (∃ bit6, MemoryStored s t (s.ea m).toNat 2 (s.sw.toBits bit6).toNat) ∧
      Recorded s t (some (s.ea m)) ∧
      t = { s with mem := t.mem, draws := t.draws, iptr := t.iptr, opc := t.opc, dptr := t.dptr }

/-- FSTENV stores the seven words of the environment image, sets the six exception masks, and reacts;
nothing else of the NDP changes, but the exception pointers where a setting puts FSTENV into
`ptr_update_set`: then the image shows its own (spec/10_state.md section 7, spec/46_processor_control.md
section 2; the masks are spec/92_eei_decisions.md D22, log 42, the pointers log 18). -/
def Obligations.StoreEnvironment : Prop :=
  ∀ (s : State) (m : MemOp), s.Inv → s.Fits m 14 → s.Writable m 14 →
    let a := (s.ea m).toNat
    Completes (exec (.fstenv m) s) fun t =>
      t.mem.readLE a 2 = s.cw.toBits.toNat ∧
      (∃ bit6, t.mem.readLE (a + 2) 2 = (s.sw.toBits bit6).toNat) ∧
      t.mem.readLE (a + 4) 2 = (tagWord s.tags).toNat ∧
      t.mem.readLE (a + 6) 2 = t.iptr.toNat % 2 ^ 16 ∧
      t.mem.readLE (a + 8) 2 = t.iptr.toNat / 2 ^ 16 * 2 ^ 12 + t.opc.toNat ∧
      t.mem.readLE (a + 10) 2 = t.dptr.toNat % 2 ^ 16 ∧
      t.mem.readLE (a + 12) 2 = t.dptr.toNat / 2 ^ 16 * 2 ^ 12 ∧
      (∀ x, x < a ∨ a + 14 ≤ x → t.mem.read x = s.mem.read x) ∧
      t.cw = { s.cw with masks := .all } ∧ t.pending = false ∧ t.sw.ir = false ∧
      t.sw.busy = s.neu.isSome ∧ t.sw.ex = s.sw.ex ∧ t.sw.code = s.sw.code ∧ t.sw.top = s.sw.top ∧
      t.regs = s.regs ∧ t.tags = s.tags ∧ Recorded s t (some (s.ea m)) ∧
      OthersKept s t

/-- FLDENV loads the environment image: control word (its reserved bits as `cw_reserved_bits` says), TOP, condition code and
flags, tags, exception pointers; IR and B are recomputed, no register or byte of memory changes. FRSTOR
does the same and loads the eight registers by their distance from the new top, leaving the tags as the
image has them (spec/46_processor_control.md section 2; the reserved bits are log 16). -/
def Obligations.LoadEnvironmentAndState : Prop :=
  ∀ (s : State) (m : MemOp),
    let a := (s.ea m).toNat
    let w (k : Nat) : BitVec 16 := BitVec.ofNat 16 (s.mem.readLE (a + 2 * k) 2)
    let Loaded (t : State) : Prop :=
      t.cw.ic = (w 0).getLsbD 12 ∧ t.cw.rc = (w 0).extractLsb' 10 2 ∧ t.cw.pc = (w 0).extractLsb' 8 2 ∧
      t.cw.iem = (w 0).getLsbD 7 ∧ t.cw.masks.toBits = (w 0).extractLsb' 0 6 ∧
      (s.conf.cwReserved = .stored → t.cw.toBits = w 0) ∧
      t.sw.top = (w 1).extractLsb' 11 3 ∧ t.sw.c3 = (w 1).getLsbD 14 ∧ t.sw.c2 = (w 1).getLsbD 10 ∧
      t.sw.c1 = (w 1).getLsbD 9 ∧ t.sw.c0 = (w 1).getLsbD 8 ∧ t.sw.ex.toBits = (w 1).extractLsb' 0 6 ∧
      (∀ p : BitVec 3, (t.tag p).toBits = (w 2).extractLsb' (2 * p.toNat) 2) ∧
      t.iptr = (w 4).extractLsb' 12 4 ++ w 3 ∧ t.opc = (w 4).extractLsb' 0 11 ∧
      t.dptr = (w 6).extractLsb' 12 4 ++ w 5 ∧
      Reacted t ∧ OthersKept s t ∧ t.mem = s.mem
    (s.Fits m 14 → Completes (exec (.fldenv m) s) fun t => Loaded t ∧ t.regs = s.regs) ∧
    (s.Fits m 94 → Completes (exec (.frstor m) s) fun t => Loaded t ∧
      ∀ k : BitVec 3, t.st k = BitVec.ofNat 80 (s.mem.readLE (a + 14 + 10 * k.toNat) 10))

/-- FSAVE writes the 94-byte image: the environment, then the eight registers by their distance from the
top, empty ones too; after it the NDP is as after FINIT. Where a setting puts FSAVE into `ptr_update_set`, image
and pointers show its own (spec/46_processor_control.md section 2, spec/10_state.md section 7; the pointers are
log 18). -/
def Obligations.SaveState : Prop :=
  ∀ (s : State) (m : MemOp), s.Inv → s.Fits m 94 → s.Writable m 94 →
    let a := (s.ea m).toNat
    Completes (exec (.fsave m) s) fun t =>
      t.mem.readLE a 2 = s.cw.toBits.toNat ∧
      (∃ bit6, t.mem.readLE (a + 2) 2 = (s.sw.toBits bit6).toNat) ∧
      t.mem.readLE (a + 4) 2 = (tagWord s.tags).toNat ∧
      t.mem.readLE (a + 6) 2 = t.iptr.toNat % 2 ^ 16 ∧
      t.mem.readLE (a + 8) 2 = t.iptr.toNat / 2 ^ 16 * 2 ^ 12 + t.opc.toNat ∧
      t.mem.readLE (a + 10) 2 = t.dptr.toNat % 2 ^ 16 ∧
      t.mem.readLE (a + 12) 2 = t.dptr.toNat / 2 ^ 16 * 2 ^ 12 ∧
      (∀ k : BitVec 3, t.mem.readLE (a + 14 + 10 * k.toNat) 10 = (s.st k).toNat) ∧
      (∀ x, x < a ∨ a + 94 ≤ x → t.mem.read x = s.mem.read x) ∧
      t.cw.toBits = 0x03FF ∧ tagWord t.tags = 0xFFFF ∧ t.sw.top = 0 ∧ t.sw.ex = .none ∧ t.sw.ir = false ∧
      t.sw.busy = false ∧ t.neu = none ∧ t.pending = false ∧ t.queued = none ∧ t.regs = s.regs ∧
      Recorded s t (some (s.ea m)) ∧ t.port = s.port ∧ t.inbox = s.inbox ∧
      t.conf = s.conf ∧ t.code = s.code ∧ t.cpuData = s.cpuData ∧ t.storing = s.storing

/-- FSAVE followed by FRSTOR of the same operand restores TOP, the flags, the condition code, every tag,
every register, the exception pointers, IR and `pending`, where the NEU was idle the whole status word with
B, and the control word, its reserved bits under one setting of `cw_reserved_bits` only
(spec/46_processor_control.md section 2; the reserved bits are log 16). The exception pointers are those that
FSAVE stored: as before it, unless a setting puts it into `ptr_update_set` (log 18). -/
def Obligations.SaveThenRestore : Prop :=
  ∀ (s : State) (m : MemOp), s.Inv → s.Fits m 94 → s.Writable m 94 →
    ∃ t u, exec (.fsave m) s = .next t ∧ exec (.frstor m) t = .next u ∧
      u.sw.top = s.sw.top ∧ u.sw.ex = s.sw.ex ∧ u.sw.code = s.sw.code ∧
      (∀ p, u.reg p = s.reg p) ∧ (∀ p, u.tag p = s.tag p) ∧
      Recorded s u (some (s.ea m)) ∧ u.sw.ir = s.sw.ir ∧ u.pending = s.pending ∧
      (s.neu = none → u.sw = s.sw) ∧ (s.conf.cwReserved = .stored → u.cw = s.cw) ∧
      ∃ rsv, u.cw = { s.cw with rsv := rsv }

/-! ### Numbers -/

/-- Rounding of a number, exact or known to lie between two neighbours: the significand chosen has `p` bits,
or is the power of two above them; the control picks it from the two neighbours: nearest, a tie to even;
down and up by the sign; chop. It is reported inexact exactly when the number was not a multiple of the unit
(spec/40_numerics.md section 4). What is left over lies below the last bit of the `p` and one more. -/
def Obligations.RoundingByControl : Prop :=
  ∀ (n p : Nat) (sticky : Bool) (e : Int) (rc : BitVec 2) (neg : Bool) (v : ℚ), 0 < n → 0 < p →
    (if sticky then p ≤ Nat.log2 n ∧ (n : ℚ) * 2 ^ e < v ∧ v < (n + 1) * 2 ^ e else v = n * 2 ^ e) →
    let x : Mag := ⟨n, sticky, e⟩
    let r := x.round p rc neg
    let q : ℚ := v / 2 ^ r.2.1
    2 ^ (p - 1) ≤ r.1 ∧ r.1 ≤ 2 ^ p ∧ ((2 : ℚ) ^ (p - 1) ≤ q ∧ q < 2 ^ p) ∧
    (r.2.2 = false ↔ (r.1 : ℚ) = q) ∧
    (rc = 0 → |(r.1 : ℚ) - q| ≤ 1 / 2 ∧ (|(r.1 : ℚ) - q| = 1 / 2 → r.1 % 2 = 0)) ∧
    (rc = 1 → (r.1 : ℤ) = if neg then ⌈q⌉ else ⌊q⌋) ∧
    (rc = 2 → (r.1 : ℤ) = if neg then ⌊q⌋ else ⌈q⌉) ∧
    (rc = 3 → (r.1 : ℤ) = ⌊q⌋)

/-- A sum and a difference of zeros and normal numbers that are not zero, and the product of two normal numbers,
are handed to the rounding exactly, with their sign; the quotient and the square root are bracketed between two neighbours of more
than 64 bits, with a remark whether anything is left. The reversed forms exchange destination and source. The
root flags P where its rounding does, and nothing else (spec/40_numerics.md section 7, spec/42_arithmetic.md
sections 1 and 2; the root under PC = 01 is log 31). -/
def Obligations.OperationsAreExactBeforeRounding : Prop :=
  (∀ (list : ExcSet) (cw : Control) (k : Nat) (rev : Bool) (dst src : TReal),
    classOf dst = .zero ∨ classOf dst = .normal → classOf src = .zero ∨ classOf src = .normal →
    let a := if rev then src else dst
    let b := if rev then dst else src
    let Delivers (op : BasicOp) (neg : Bool) (x : Mag) : Prop :=
      arith list cw k op rev dst src = .ofDelivered (deliver cw (precOf cw.pc) k neg x)
    (valueOf a + valueOf b ≠ 0 → ∃ x : Mag, x.sticky = false ∧
      Delivers .add (decide (valueOf a + valueOf b < 0)) x ∧ (x.n : ℚ) * 2 ^ x.e = |valueOf a + valueOf b|) ∧
    (valueOf a - valueOf b ≠ 0 → ∃ x : Mag, x.sticky = false ∧
      Delivers .sub (decide (valueOf a - valueOf b < 0)) x ∧ (x.n : ℚ) * 2 ^ x.e = |valueOf a - valueOf b|) ∧
    (classOf a = .normal → classOf b = .normal →
      (∃ x : Mag, x.sticky = false ∧ Delivers .mul (signOf a ^^ signOf b) x ∧
        (x.n : ℚ) * 2 ^ x.e = |valueOf a| * |valueOf b|) ∧
      Delivers .div (signOf a ^^ signOf b) ((valOf a).quotient (valOf b)))) ∧
  (∀ (cw : Control) (k : Nat) (a : TReal), classOf a = .normal → signOf a = false →
    let d := deliver cw (precOf cw.pc) k false (valOf a).sqrt
    sqrtOf cw k a = ⟨.none, { ExcSet.none with p := d.ex.p }, d.value⟩) ∧
  (∀ a b : Val, (a.add b).value = a.value + b.value) ∧
  (∀ a b : Val, 0 < b.m →
    let q := a.quotient b
    let x : ℚ := a.m * 2 ^ a.e / (b.m * 2 ^ b.e)
    (q.n : ℚ) * 2 ^ q.e ≤ x ∧ x < (q.n + 1) * 2 ^ q.e ∧ (q.sticky = false ↔ (q.n : ℚ) * 2 ^ q.e = x) ∧
    (2 ^ 63 ≤ a.m → b.m < 2 ^ 64 → 64 ≤ Nat.log2 q.n)) ∧
  (∀ r : TReal, classOf r = .normal → 2 ^ 63 ≤ (valOf r).m ∧ (valOf r).m < 2 ^ 64) ∧
  ∀ v : Val, v.m < 2 ^ 64 →
    let r := v.sqrt
    let x : ℚ := v.m * 2 ^ v.e
    ((r.n : ℚ) * 2 ^ r.e) ^ 2 ≤ x ∧ x < ((r.n + 1) * 2 ^ r.e) ^ 2 ∧
    (r.sticky = false ↔ ((r.n : ℚ) * 2 ^ r.e) ^ 2 = x) ∧
    (2 ^ 63 ≤ v.m → 64 ≤ Nat.log2 r.n)

/-- A result that neither underflows nor overflows, exact or known to lie between two neighbours: the
register holds the rounded significand, normalized, with its sign, and its value is the rounded value; P is
flagged exactly when that is not the exact one, O and U are not (spec/40_numerics.md section 5). Stated for
every precision but the reserved one. -/
def Obligations.ResultInRange : Prop :=
  ∀ (cw : Control) (prec : Prec) (k n : Nat) (sticky neg : Bool) (e : Int) (v : ℚ), prec ≠ .reserved → 0 < n →
    (if sticky then prec.bits ≤ Nat.log2 n ∧ (n : ℚ) * 2 ^ e < v ∧ v < (n + 1) * 2 ^ e else v = n * 2 ^ e) →
    let x : Mag := ⟨n, sticky, e⟩
    let r := x.round prec.bits cw.rc neg
    x.exponent ≥ -16382 → (Nat.log2 r.1 : Int) + r.2.1 ≤ 16383 →
    let d := deliver cw prec k neg x
    classOf d.value = .normal ∧ signOf d.value = neg ∧ |valueOf d.value| = r.1 * 2 ^ r.2.1 ∧
    d.ex.o = false ∧ d.ex.u = false ∧
    (d.ex.p = false ↔ valueOf d.value = (if neg then -1 else 1) * v)

/-- Overflow and underflow of a result of 24, 53 or 64 bits, exact or known to lie between two neighbours, as a
quotient does. Unmasked, the register holds the rounded result with 24,576 taken from its exponent, or added to it,
and P is flagged exactly when that rounding lost something; masked overflow under nearest or chop gives the
infinity; masked underflow signals U and keeps the sign, and a 64-bit result is the multiple of 2^-16445 that the
rounding control picks, a true zero where that is 0, with P exactly when it is not the exact value
(spec/40_numerics.md section 5). The exponent stays in range after the adjustment. -/
def Obligations.OverflowAndUnderflow : Prop :=
  ∀ (cw : Control) (prec : Prec) (k n : Nat) (sticky neg : Bool) (e : Int) (v : ℚ), prec ≠ .reserved → 0 < n →
    (if sticky then prec.bits ≤ Nat.log2 n ∧ (n : ℚ) * 2 ^ e < v ∧ v < (n + 1) * 2 ^ e else v = n * 2 ^ e) →
    let x : Mag := ⟨n, sticky, e⟩
    let r := x.round prec.bits cw.rc neg
    let d := deliver cw prec k neg x
    (-16382 ≤ x.exponent → 16383 < (Nat.log2 r.1 : Int) + r.2.1 →
      d.ex.o = true ∧ d.ex.u = false ∧
      (cw.masks.o = true → d.ex.p = true ∧ (cw.rc = 0 ∨ cw.rc = 3 → d.value = infOf neg)) ∧
      (cw.masks.o = false → (Nat.log2 r.1 : Int) + r.2.1 ≤ 16383 + 24576 →
        (d.ex.p = false ↔ (r.1 : ℚ) * 2 ^ r.2.1 = v) ∧
        valueOf d.value = (if neg then -1 else 1) * r.1 * 2 ^ (r.2.1 - 24576))) ∧
    (x.exponent < -16382 →
      d.ex.u = true ∧ d.ex.o = false ∧
      (cw.masks.u = true → signOf d.value = neg ∧
        (prec = .p64 → ∃ m : ℤ, RoundsTo cw.rc ((if neg then -v else v) / 2 ^ (-16445 : Int)) m ∧
          valueOf d.value = m * 2 ^ (-16445 : Int) ∧
          (d.ex.p = false ↔ |valueOf d.value| = v) ∧ (m = 0 → classOf d.value = .zero))) ∧
      (cw.masks.u = false → -16382 - 24576 ≤ x.exponent →
        (d.ex.p = false ↔ (r.1 : ℚ) * 2 ^ r.2.1 = v) ∧
        signOf d.value = neg ∧ |valueOf d.value| = r.1 * 2 ^ (r.2.1 + 24576)))

/-- Loading a short or long real is exact, and storing it again gives the same bits, without an exception,
whatever the rounding control: for every operand that is a zero, a normal number, an infinity or a NAN
(spec/40_numerics.md section 6). -/
def Obligations.RealLoadThenStore : Prop :=
  ∀ (cw : Control) (f : RealFmt) (w : Nat), w < 2 ^ f.bits →
    let e := w / 2 ^ f.fracBits % 2 ^ f.expBits
    let frac := w % 2 ^ f.fracBits
    ¬ (e = 0 ∧ frac ≠ 0) →
    let c := cvtReal f w
    c.d = false ∧ toReal cw f c.value = ⟨.none, .none, w⟩ ∧
    (0 < e → e < 2 ^ f.expBits - 1 → classOf c.value = .normal ∧
      |valueOf c.value| = (2 ^ f.fracBits + frac : ℕ) * 2 ^ ((e : Int) - f.bias - f.fracBits))

/-- Loading an integer of any of the three formats gives +0.0, all bits zero, for zero; otherwise a normal
number with the sign of the top bit; its value is exact; and storing it again in that format gives the same
bits, without an exception, whatever the rounding control. Loading eighteen valid decimal digits is exact,
and storing them again gives the same digits and sign, the unused bits of byte 9 being 0, without an
exception (spec/40_numerics.md section 6). -/
def Obligations.IntegerAndDecimalLoadThenStore : Prop :=
  (∀ (cw : Control) (f : IntFmt) (w : Nat), w < 2 ^ f.bits →
    let v := f.toInt w
    (v = 0 → cvtInt v = 0#80) ∧
    (v ≠ 0 → classOf (cvtInt v) = .normal ∧ signOf (cvtInt v) = w.testBit (f.bits - 1)) ∧
    valueOf (cvtInt v) = v ∧
    toInt cw f (cvtInt v) = ⟨.none, .none, w⟩) ∧
  ∀ (cw : Control) (k w : Nat), w < 2 ^ 80 → bcdValid w 18 = true →
    |valueOf (cvtBcd w)| = bcdValue w 18 ∧ signOf (cvtBcd w) = w.testBit 79 ∧
    toBcd cw k (cvtBcd w) = ⟨.none, .none, w / 2 ^ 79 * 2 ^ 79 + w % 2 ^ 72⟩

/-- What a store makes of a zero or a normal number. An integer is the number rounded by the control, P
exactly when they differ; outside the format's range, and for a NAN or an infinity, it is the indefinite with
I. A packed decimal is the magnitude with one half added and chopped, with the sign, never with P; of 10^18
and more, of a NAN and an infinity, it is the indefinite with I. A short or long real in range is the number
rounded to the format; a smaller one is rounded to the multiple of the format's least unit, with U; a larger
one flags O and P, and is the infinity under nearest or chop. A denormal, an infinity, a NAN and the other
patterns that are tagged special are chopped, the exponent 0 or all ones as it is, without an exception. A
denormal or unnormal stored as an integer
or decimal with D unmasked signals D and no more (spec/40_numerics.md sections 6 and 8; the half is decision D15;
that the D of section 8 goes before the lists of the stores is log 23). -/
def Obligations.StoredNumbersAreRounded : Prop :=
  ∀ (cw : Control) (k : Nat) (r : TReal),
    (∀ f : IntFmt, (classOf r = .nan ∨ classOf r = .infinity → toInt cw f r = ⟨.onlyI, .none, 2 ^ (f.bits - 1)⟩) ∧
      ((classOf r).denormalOperand = true → cw.masks.d = false → (toInt cw f r).before = .onlyD) ∧
      (classOf r = .zero ∨ classOf r = .normal → ∃ n : ℤ, RoundsTo cw.rc (valueOf r) n ∧
        toInt cw f r = if -2 ^ (f.bits - 1) ≤ n ∧ n < 2 ^ (f.bits - 1)
          then ⟨.none, { ExcSet.none with p := decide ((n : ℚ) ≠ valueOf r) }, (n % 2 ^ f.bits).toNat⟩
          else ⟨.onlyI, .none, 2 ^ (f.bits - 1)⟩)) ∧
    (let n : ℤ := ⌊|valueOf r| + 1 / 2⌋
      let x := toBcd cw k r
      ((classOf r).denormalOperand = true → cw.masks.d = false → x.before = .onlyD) ∧
      (classOf r = .zero ∨ classOf r = .normal → n < 10 ^ 18 → x.before = .none ∧ x.after = .none ∧
        x.bits.testBit 79 = signOf r ∧ x.bits / 2 ^ 72 % 2 ^ 7 = 0 ∧ x.bits < 2 ^ 80 ∧
        bcdValid x.bits 18 = true ∧ (bcdValue x.bits 18 : ℤ) = n) ∧
      (classOf r = .nan ∨ classOf r = .infinity ∨ (classOf r = .normal ∧ 10 ^ 18 ≤ n) →
        x.before = .onlyI ∧ x.after = .none ∧ x.bits / 2 ^ 64 = 0xFFFF)) ∧
    ∀ f : RealFmt,
      let x := toReal cw f r
      let m := Mag.ofVal (valOf r)
      let y := m.round (f.fracBits + 1) cw.rc (signOf r)
      let top : Int := Nat.log2 y.1 + y.2.1
      (classOf r = .zero → x = ⟨.none, .none, if signOf r then 2 ^ (f.bits - 1) else 0⟩) ∧
      (expOf r = 0 ∧ sigOf r ≠ 0 ∨ expOf r = 0x7FFF → x.before = .none ∧ x.after = .none ∧
        x.bits = f.pack (signOf r) (if expOf r = 0 then 0 else 2 ^ f.expBits - 1)
          (sigOf r % 2 ^ 63 / 2 ^ (63 - f.fracBits))) ∧
      (classOf r = .normal → x.before = .none ∧
        (1 - (f.bias : Int) ≤ m.exponent → top ≤ f.bias →
          x.after = { ExcSet.none with p := y.2.2 } ∧ (cvtReal f x.bits).d = false ∧
          signOf (cvtReal f x.bits).value = signOf r ∧
          |valueOf (cvtReal f x.bits).value| = y.1 * 2 ^ y.2.1) ∧
        (1 - (f.bias : Int) ≤ m.exponent → f.bias < top →
          x.after = { ExcSet.none with o := true, p := true } ∧
          (cw.rc = 0 ∨ cw.rc = 3 → x.bits = f.pack (signOf r) (2 ^ f.expBits - 1) 0)) ∧
        (m.exponent < 1 - (f.bias : Int) → ∃ n : ℤ,
          RoundsTo cw.rc (valueOf r / 2 ^ (1 - (f.bias : Int) - f.fracBits)) n ∧
          x.after = { ExcSet.none with u := true,
                                       p := decide ((n : ℚ) * 2 ^ (1 - (f.bias : Int) - f.fracBits) ≠ valueOf r) } ∧
          x.bits = (if signOf r then 2 ^ (f.bits - 1) else 0) + n.natAbs))

/-- The special cases of the basic operations: a NAN operand is an invalid operation whose masked result is
that NAN, or of two the one with the larger significand; zero divided by zero, infinity by infinity, zero
times infinity, sums of infinities of unlike effective sign, and under projective control of any signs, are
invalid with the indefinite, under affine control the sum of like infinities is that infinity; an infinity
with a finite operand gives an infinity, or a zero as divisor, with the sign of the operation; a nonzero
number divided by zero signals Z and gives the infinity with the product of the signs. These results are
claimed under the reserved precision control too, which is the model's choice (log 31). A denormal or unnormal
operand signals D; with D unmasked the instruction signals no more, but the I of a NAN, and changes nothing
(spec/40_numerics.md sections 3, 7 and 8). -/
def Obligations.SpecialOperandsOfArithmetic : Prop :=
  (∀ (list : ExcSet) (cw : Control) (k : Nat) (op : BasicOp) (rev : Bool) (dst src : TReal),
    (classOf dst).denormalOperand = true ∨ (classOf src).denormalOperand = true →
    (list.d = true → (arith list cw k op rev dst src).before.d = true) ∧
    (cw.masks.d = false → (arith list cw k op rev dst src).before =
      { ExcSet.onlyD with i := decide (classOf dst = .nan ∨ classOf src = .nan) })) ∧
  (∀ (s : State) (k : BitVec 3) (i : Instr),
    i ∈ [.faddSt k, .fsubSt k, .fsubrSt k, .fmulSt k, .fdivSt k, .fdivrSt k, .faddSti k, .fsubSti k,
      .fsubrSti k, .fmulSti k, .fdivSti k, .fdivrSti k, .faddp k, .fsubp k, .fsubrp k, .fmulp k, .fdivp k,
      .fdivrp k] →
    s.isEmpty 0 = false → s.isEmpty k = false → s.cw.masks.d = false →
    (classOf (s.num 0)).denormalOperand = true ∨ (classOf (s.num k)).denormalOperand = true →
    classOf (s.num 0) ≠ .nan → classOf (s.num k) ≠ .nan →
    Completes (exec i s) fun t => Ran s t none .onlyD ∧ StackKept s t ∧ MemoryKept s t) ∧
  ∀ (list : ExcSet) (cw : Control) (k : Nat) (dst src : TReal), (classOf dst).extended = false →
    (classOf src).extended = false →
    let neg := signOf dst ^^ signOf src
    let Finite (r : TReal) : Prop := classOf r = .zero ∨ classOf r = .normal
    let Invalid (c : Computed) : Prop := c = ⟨.onlyI, .none, indefinite⟩
    (∀ op rev, classOf dst = .nan → (classOf src = .nan → sigOf src ≤ sigOf dst) →
      arith list cw k op rev dst src = ⟨.onlyI, .none, dst⟩) ∧
    (∀ op rev, classOf src = .nan → (classOf dst = .nan → sigOf dst < sigOf src) →
      arith list cw k op rev dst src = ⟨.onlyI, .none, src⟩) ∧
    (∀ rev, (classOf dst = .zero ∧ classOf src = .zero) ∨ (classOf dst = .infinity ∧ classOf src = .infinity) →
      Invalid (arith list cw k .div rev dst src)) ∧
    (∀ rev, (classOf dst = .zero ∧ classOf src = .infinity) ∨ (classOf dst = .infinity ∧ classOf src = .zero) →
      Invalid (arith list cw k .mul rev dst src)) ∧
    (∀ rev, classOf dst = .infinity → classOf src = .infinity →
      arith list cw k .mul rev dst src = ⟨.none, .none, infOf neg⟩ ∧
      (cw.ic = false ∨ neg = true → Invalid (arith list cw k .add rev dst src)) ∧
      (cw.ic = false ∨ neg = false → Invalid (arith list cw k .sub rev dst src)) ∧
      (cw.ic = true → neg = false → arith list cw k .add rev dst src = ⟨.none, .none, dst⟩) ∧
      (cw.ic = true → neg = true →
        arith list cw k .sub rev dst src = ⟨.none, .none, if rev then src else dst⟩)) ∧
    (∀ rev, classOf dst = .infinity → Finite src →
      arith list cw k .add rev dst src = ⟨.none, .none, dst⟩ ∧
      arith list cw k .sub rev dst src = ⟨.none, .none, infOf (signOf dst ^^ rev)⟩ ∧
      (classOf src = .normal → arith list cw k .mul rev dst src = ⟨.none, .none, infOf neg⟩) ∧
      arith list cw k .div rev dst src = ⟨.none, .none, if rev then zeroOf neg else infOf neg⟩) ∧
    (∀ rev, Finite dst → classOf src = .infinity →
      arith list cw k .add rev dst src = ⟨.none, .none, src⟩ ∧
      arith list cw k .sub rev dst src = ⟨.none, .none, infOf (signOf src ^^ !rev)⟩ ∧
      (classOf dst = .normal → arith list cw k .mul rev dst src = ⟨.none, .none, infOf neg⟩) ∧
      arith list cw k .div rev dst src = ⟨.none, .none, if rev then infOf neg else zeroOf neg⟩) ∧
    (∀ rev, (rev = false ∧ classOf dst = .normal ∧ classOf src = .zero) ∨
        (rev = true ∧ classOf dst = .zero ∧ classOf src = .normal) →
      arith list cw k .div rev dst src = ⟨.onlyZ, .none, infOf neg⟩)

/-- Zero results of the basic operations, of either operand order: a number less itself, or with its
negative, and zeros of unlike effective sign, give +0, or -0 when rounding down; zeros of one effective sign
keep it; a product or quotient that is zero has the product of the signs (spec/40_numerics.md section 3).
Claimed under the reserved precision control too, which is the model's choice (log 31). -/
def Obligations.SignsOfZeroResults : Prop :=
  ∀ (list : ExcSet) (cw : Control) (k : Nat) (rev : Bool) (a b : TReal),
    classOf a = .zero ∨ classOf a = .normal → classOf b = .zero ∨ classOf b = .normal →
    let Is (c : Computed) (neg : Bool) : Prop := c = ⟨.none, .none, zeroOf neg⟩
    (classOf a = .normal → valueOf a = valueOf b → Is (arith list cw k .sub rev a b) (cw.rc = 1)) ∧
    (classOf a = .normal → valueOf a = -valueOf b → Is (arith list cw k .add rev a b) (cw.rc = 1)) ∧
    (classOf a = .zero → classOf b = .zero →
      Is (arith list cw k .add rev a b) (if signOf a = signOf b then signOf a else cw.rc = 1) ∧
      Is (arith list cw k .sub rev a b)
        (if signOf a = signOf b then decide (cw.rc = 1) else if rev then signOf b else signOf a)) ∧
    (classOf a = .zero ∨ classOf b = .zero → Is (arith list cw k .mul rev a b) (signOf a ^^ signOf b)) ∧
    ((if rev then classOf a = .normal ∧ classOf b = .zero else classOf a = .zero ∧ classOf b = .normal) →
      Is (arith list cw k .div rev a b) (signOf a ^^ signOf b))
end

