-- ==== Sys2Proof/Laws/Memory.lean ====
section
/-! SUPPORT. Memory: a read after a write, the places a write leaves alone, and the canonical form, which
every operation keeps. -/

namespace Sys2Proof.Machine

theorem Memory.wf_cons (k : Nat) (b : Byte) (t : Memory) :
    Memory.wf ((k, b) :: t) = true ↔
      k < 2 ^ 20 ∧ b ≠ Memory.unlisted ∧ (∀ c ∈ t, k < c.1) ∧ Memory.wf t = true := by
  simp [Memory.wf, and_assoc]

/-- An address below every listed one reads as unlisted. -/
theorem Memory.read_below (m : Memory) (a : Nat) (h : ∀ c ∈ m, a < c.1) : m.read a = Memory.unlisted := by
  induction m with
  | nil => rfl
  | cons c t ih =>
    have hc := h c (List.mem_cons_self ..)
    rw [Memory.read, if_neg (by omega)]
    exact ih fun d hd => h d (List.mem_cons_of_mem _ hd)

theorem Memory.read_cons_op (a x : Nat) (b : Byte) (t : Memory) (h : ∀ c ∈ t, a < c.1) :
    (Memory.cons a b t).read x = if x = a then b else Memory.read t x := by
  unfold Memory.cons
  split
  · next hb =>
    split
    · next hx => rw [hx, Memory.read_below t a h, hb]
    · rfl
  · rfl

/-- A read after a write: the byte written there, every other byte as before. -/
theorem Memory.read_write (m : Memory) (a x : Nat) (b : Byte) (h : m.wf = true) :
    (m.write a b).read x = if x = a then b else m.read x := by
  induction m with
  | nil => exact Memory.read_cons_op a x b [] (by simp)
  | cons c t ih =>
    obtain ⟨k, d⟩ := c
    obtain ⟨-, -, hk, ht⟩ := (Memory.wf_cons k d t).mp h
    unfold Memory.write
    by_cases h1 : a < k
    · rw [if_pos h1]
      refine Memory.read_cons_op a x b _ fun c hc => ?_
      rcases List.mem_cons.mp hc with rfl | hc
      · exact h1
      · exact lt_trans h1 (hk c hc)
    · rw [if_neg h1]
      by_cases h2 : a = k
      · subst h2
        rw [if_pos rfl, Memory.read_cons_op a x b t hk]
        by_cases hx : x = a
        · rw [if_pos hx, if_pos hx]
        · rw [if_neg hx, if_neg hx, Memory.read, if_neg hx]
      · rw [if_neg h2]
        by_cases hx : x = k
        · subst hx
          have : x ≠ a := fun e => h2 e.symm
          simp only [Memory.read, if_true, if_neg this]
        · simp only [Memory.read, if_neg hx]
          exact ih ht

theorem Memory.wf_cons_op (a : Nat) (b : Byte) (t : Memory) (ha : a < 2 ^ 20) (h : ∀ c ∈ t, a < c.1)
    (ht : Memory.wf t = true) : (Memory.cons a b t).wf = true := by
  unfold Memory.cons
  split
  · exact ht
  · next hb => exact (Memory.wf_cons a b t).mpr ⟨ha, hb, h, ht⟩

/-- The addresses a write can list: those listed before, and its own. -/
theorem Memory.mem_write (m : Memory) (a : Nat) (b : Byte) (c : Host.Cell) (h : c ∈ m.write a b) :
    c.1 = a ∨ c ∈ m := by
  have mem_cons_op : ∀ t : Memory, c ∈ Memory.cons a b t → c.1 = a ∨ c ∈ t := by
    intro t ht
    unfold Memory.cons at ht
    split at ht
    · exact .inr ht
    · rcases List.mem_cons.mp ht with rfl | ht
      · exact .inl rfl
      · exact .inr ht
  induction m with
  | nil => exact (mem_cons_op [] h).imp_right id
  | cons d t ih =>
    obtain ⟨k, e⟩ := d
    unfold Memory.write at h
    split at h
    · exact mem_cons_op _ h
    · split at h
      · exact (mem_cons_op _ h).imp_right (List.mem_cons_of_mem _)
      · rcases List.mem_cons.mp h with rfl | h
        · exact .inr (List.mem_cons_self ..)
        · exact (ih h).imp_right (List.mem_cons_of_mem _)

/-- A write keeps the canonical form. -/
theorem Memory.wf_write (m : Memory) (a : Nat) (b : Byte) (ha : a < 2 ^ 20) (h : m.wf = true) :
    (m.write a b).wf = true := by
  induction m with
  | nil => exact Memory.wf_cons_op a b [] ha (by simp) rfl
  | cons c t ih =>
    obtain ⟨k, d⟩ := c
    obtain ⟨hk20, hd, hk, ht⟩ := (Memory.wf_cons k d t).mp h
    unfold Memory.write
    split
    · next h1 =>
      refine Memory.wf_cons_op a b _ ha (fun c hc => ?_) h
      rcases List.mem_cons.mp hc with rfl | hc
      · exact h1
      · exact lt_trans h1 (hk c hc)
    · split
      · next h2 => subst h2; exact Memory.wf_cons_op a b t ha hk ht
      · next h1 h2 =>
        refine (Memory.wf_cons k d _).mpr ⟨hk20, hd, fun c hc => ?_, ih ht⟩
        rcases Memory.mem_write t a b c hc with e | hc
        · omega
        · exact hk c hc

theorem Memory.wf_writeLE (m : Memory) (a n v : Nat) (ha : a + n ≤ 2 ^ 20) (h : m.wf = true) :
    (m.writeLE a n v).wf = true := by
  induction n generalizing m a v with
  | zero => exact h
  | succ n ih => exact ih _ _ _ (by omega) (Memory.wf_write m a _ (by omega) h)

/-- Bytes outside a store are as before. -/
theorem Memory.read_writeLE_outside (m : Memory) (a n v x : Nat) (ha : a + n ≤ 2 ^ 20) (h : m.wf = true)
    (hx : x < a ∨ a + n ≤ x) : (m.writeLE a n v).read x = m.read x := by
  induction n generalizing m a v with
  | zero => rfl
  | succ n ih =>
    rw [Memory.writeLE, ih _ _ _ (by omega) (Memory.wf_write m a _ (by omega) h) (by omega),
      Memory.read_write m a x _ h, if_neg (by omega)]

/-- Byte `k` of a stored value. -/
theorem Memory.read_writeLE_inside (m : Memory) (a n v k : Nat) (ha : a + n ≤ 2 ^ 20) (h : m.wf = true)
    (hk : k < n) : (m.writeLE a n v).read (a + k) = BitVec.ofNat 8 (v / 256 ^ k) := by
  induction n generalizing m a v k with
  | zero => omega
  | succ n ih =>
    have hw := Memory.wf_write m a (BitVec.ofNat 8 v) (by omega) h
    rw [Memory.writeLE]
    cases k with
    | zero =>
      rw [Memory.read_writeLE_outside _ _ _ _ _ (by omega) hw (by omega),
        Memory.read_write m a _ _ h, if_pos (by omega), Nat.pow_zero, Nat.div_one]
    | succ k =>
      rw [show a + (k + 1) = a + 1 + k by omega, ih _ _ _ k (by omega) hw (by omega),
        Nat.div_div_eq_div_mul, Nat.pow_succ, Nat.mul_comm 256]

/-- A value read back after it was stored. -/
theorem Memory.readLE_writeLE (m : Memory) (a n v : Nat) (ha : a + n ≤ 2 ^ 20) (h : m.wf = true) :
    (m.writeLE a n v).readLE a n = v % 256 ^ n := by
  induction n generalizing m a v with
  | zero => simp [Memory.readLE, Nat.mod_one]
  | succ n ih =>
    have hw := Memory.wf_write m a (BitVec.ofNat 8 v) (by omega) h
    rw [Memory.writeLE, Memory.readLE, ih _ _ _ (by omega) hw,
      Memory.read_writeLE_outside _ _ _ _ _ (by omega) hw (by omega), Memory.read_write m a a _ h,
      if_pos rfl, Nat.pow_succ, Nat.mul_comm (256 ^ n), Nat.mod_mul]
    simp

/-- A part of a stored value read back. -/
theorem Memory.readLE_writeLE_within (m : Memory) (a n v k j : Nat) (ha : a + n ≤ 2 ^ 20) (h : m.wf = true)
    (hk : k + j ≤ n) : (m.writeLE a n v).readLE (a + k) j = v / 256 ^ k % 256 ^ j := by
  induction j generalizing k with
  | zero => simp [Memory.readLE, Nat.mod_one]
  | succ j ih =>
    rw [Memory.readLE, Memory.read_writeLE_inside m a n v k ha h (by omega),
      show a + k + 1 = a + (k + 1) by omega, ih (k + 1) (by omega), Nat.pow_succ 256 j, Nat.mul_comm (256 ^ j),
      Nat.mod_mul, BitVec.toNat_ofNat, Nat.div_div_eq_div_mul, ← Nat.pow_succ]

/-- A value read after a store elsewhere. -/
theorem Memory.readLE_writeLE_apart (m : Memory) (a n v b k : Nat) (ha : a + n ≤ 2 ^ 20) (h : m.wf = true)
    (hb : b + k ≤ a ∨ a + n ≤ b) : (m.writeLE a n v).readLE b k = m.readLE b k := by
  induction k generalizing b with
  | zero => rfl
  | succ k ih =>
    rw [Memory.readLE, Memory.readLE, ih (b + 1) (by omega),
      Memory.read_writeLE_outside m a n v b ha h (by omega)]

/-- Bytes written or not keep the canonical form. -/
theorem Memory.wf_writeSome (m : Memory) (k : Nat) (cells : List (Addr × Byte)) (h : m.wf = true) :
    (m.writeSome k cells).wf = true := by
  induction cells generalizing m with
  | nil => exact h
  | cons c t ih =>
    refine ih _ ?_
    split
    · exact Memory.wf_write _ _ _ c.1.isLt h
    · exact h

/-- Where bytes are written or not, each byte of memory is as before, or one of them. -/
theorem Memory.read_writeSome (m : Memory) (k : Nat) (cells : List (Addr × Byte)) (x : Nat) (h : m.wf = true) :
    (m.writeSome k cells).read x = m.read x ∨
      ∃ c ∈ cells, c.1.toNat = x ∧ (m.writeSome k cells).read x = c.2 := by
  induction cells generalizing m with
  | nil => exact .inl rfl
  | cons c t ih =>
    rw [Memory.writeSome]
    split
    · rcases ih _ (Memory.wf_write _ _ _ c.1.isLt h) with e | ⟨d, hd, e⟩
      · rw [Memory.read_write _ _ _ _ h] at e
        by_cases hx : x = c.1.toNat
        · exact .inr ⟨c, List.mem_cons_self .., hx.symm, by rw [e, if_pos hx]⟩
        · exact .inl (by rw [e, if_neg hx])
      · exact .inr ⟨d, List.mem_cons_of_mem _ hd, e⟩
    · exact (ih _ h).imp_right fun ⟨d, hd, e⟩ => ⟨d, List.mem_cons_of_mem _ hd, e⟩

/-- A change of single bytes below 2^20 keeps the canonical form. -/
theorem Memory.wf_blur (m : Memory) (k : Nat) (xs : List Nat) (hx : ∀ x ∈ xs, x < 2 ^ 20) (h : m.wf = true) :
    (m.blur k xs).wf = true := by
  induction xs with
  | nil => exact h
  | cons a t ih =>
    exact Memory.wf_write _ _ _ (hx a (List.mem_cons_self ..)) (ih fun x h => hx x (List.mem_cons_of_mem _ h))

theorem Memory.wf_merge (old new : Memory) (k : Nat) (xs : List Nat) (hx : ∀ x ∈ xs, x < 2 ^ 20)
    (h : new.wf = true) : (Memory.merge old new k xs).wf = true := by
  induction xs with
  | nil => exact h
  | cons a t ih =>
    exact Memory.wf_write _ _ _ (hx a (List.mem_cons_self ..)) (ih fun x h => hx x (List.mem_cons_of_mem _ h))

/-- Bytes that do not race read as before. -/
theorem Memory.read_blur_other (m : Memory) (k : Nat) (xs : List Nat) (x : Nat) (hx : ∀ y ∈ xs, y < 2 ^ 20)
    (h : m.wf = true) (hn : x ∉ xs) : (m.blur k xs).read x = m.read x := by
  induction xs with
  | nil => rfl
  | cons a t ih =>
    have ht : ∀ y ∈ t, y < 2 ^ 20 := fun y hy => hx y (List.mem_cons_of_mem _ hy)
    rw [Memory.blur, Memory.read_write _ _ _ _ (Memory.wf_blur m k t ht h),
      if_neg (List.ne_of_not_mem_cons hn), ih ht fun hc => hn (List.mem_cons_of_mem _ hc)]

/-- After a race each byte is the old one or the new one; a byte that does not race is the new one. -/
theorem Memory.read_merge (old new : Memory) (k : Nat) (xs : List Nat) (x : Nat) (hx : ∀ y ∈ xs, y < 2 ^ 20)
    (h : new.wf = true) :
    (Memory.merge old new k xs).read x =
      if x ∈ xs ∧ Config.freeKeeps k x = true then old.read x else new.read x := by
  induction xs with
  | nil => exact (if_neg (by simp)).symm
  | cons a t ih =>
    have ht : ∀ y ∈ t, y < 2 ^ 20 := fun y hy => hx y (List.mem_cons_of_mem _ hy)
    rw [Memory.merge, Memory.read_write _ _ _ _ (Memory.wf_merge old new k t ht h), ih ht]
    by_cases e : x = a
    · subst e
      rw [if_pos rfl]
      cases Config.freeKeeps k x <;> simp
    · rw [if_neg e]
      simp [e]

/-- A value is below 256 to the number of its bytes. -/
theorem Memory.readLE_lt (m : Memory) (a n : Nat) : m.readLE a n < 256 ^ n := by
  induction n generalizing a with
  | zero => simp [Memory.readLE]
  | succ n ih =>
    have h1 := (m.read a).isLt
    have h2 := ih (a + 1)
    rw [Memory.readLE, Nat.pow_succ]
    omega

end Sys2Proof.Machine
end

