-- ==== Sys2Proof/Laws/State.lean ====
section
/-! SUPPORT. Each field of the state after each update: true by unfolding, once, so that no later proof
unfolds a record update; and the registers and tags after each write. -/

namespace Sys2Proof.Machine

/-! ### setReg -/

@[simp] theorem State.setReg_regs (s : State) (p : BitVec 3) (v : TReal) (t : Tag) : (s.setReg p v t).regs = s.regs.set p.toFin v p.isLt := rfl
@[simp] theorem State.setReg_tags (s : State) (p : BitVec 3) (v : TReal) (t : Tag) : (s.setReg p v t).tags = s.tags.set p.toFin t p.isLt := rfl
@[simp] theorem State.setReg_sw (s : State) (p : BitVec 3) (v : TReal) (t : Tag) : (s.setReg p v t).sw = s.sw := rfl
@[simp] theorem State.setReg_cw (s : State) (p : BitVec 3) (v : TReal) (t : Tag) : (s.setReg p v t).cw = s.cw := rfl
@[simp] theorem State.setReg_iptr (s : State) (p : BitVec 3) (v : TReal) (t : Tag) : (s.setReg p v t).iptr = s.iptr := rfl
@[simp] theorem State.setReg_opc (s : State) (p : BitVec 3) (v : TReal) (t : Tag) : (s.setReg p v t).opc = s.opc := rfl
@[simp] theorem State.setReg_dptr (s : State) (p : BitVec 3) (v : TReal) (t : Tag) : (s.setReg p v t).dptr = s.dptr := rfl
@[simp] theorem State.setReg_neu (s : State) (p : BitVec 3) (v : TReal) (t : Tag) : (s.setReg p v t).neu = s.neu := rfl
@[simp] theorem State.setReg_pending (s : State) (p : BitVec 3) (v : TReal) (t : Tag) : (s.setReg p v t).pending = s.pending := rfl
@[simp] theorem State.setReg_queued (s : State) (p : BitVec 3) (v : TReal) (t : Tag) : (s.setReg p v t).queued = s.queued := rfl
@[simp] theorem State.setReg_port (s : State) (p : BitVec 3) (v : TReal) (t : Tag) : (s.setReg p v t).port = s.port := rfl
@[simp] theorem State.setReg_inbox (s : State) (p : BitVec 3) (v : TReal) (t : Tag) : (s.setReg p v t).inbox = s.inbox := rfl
@[simp] theorem State.setReg_mem (s : State) (p : BitVec 3) (v : TReal) (t : Tag) : (s.setReg p v t).mem = s.mem := rfl
@[simp] theorem State.setReg_cpuData (s : State) (p : BitVec 3) (v : TReal) (t : Tag) : (s.setReg p v t).cpuData = s.cpuData := rfl
@[simp] theorem State.setReg_storing (s : State) (p : BitVec 3) (v : TReal) (t : Tag) : (s.setReg p v t).storing = s.storing := rfl
@[simp] theorem State.setReg_code (s : State) (p : BitVec 3) (v : TReal) (t : Tag) : (s.setReg p v t).code = s.code := rfl
@[simp] theorem State.setReg_conf (s : State) (p : BitVec 3) (v : TReal) (t : Tag) : (s.setReg p v t).conf = s.conf := rfl
@[simp] theorem State.setReg_draws (s : State) (p : BitVec 3) (v : TReal) (t : Tag) : (s.setReg p v t).draws = s.draws := rfl

/-! ### setTag -/

@[simp] theorem State.setTag_regs (s : State) (p : BitVec 3) (t : Tag) : (s.setTag p t).regs = s.regs := rfl
@[simp] theorem State.setTag_tags (s : State) (p : BitVec 3) (t : Tag) : (s.setTag p t).tags = s.tags.set p.toFin t p.isLt := rfl
@[simp] theorem State.setTag_sw (s : State) (p : BitVec 3) (t : Tag) : (s.setTag p t).sw = s.sw := rfl
@[simp] theorem State.setTag_cw (s : State) (p : BitVec 3) (t : Tag) : (s.setTag p t).cw = s.cw := rfl
@[simp] theorem State.setTag_iptr (s : State) (p : BitVec 3) (t : Tag) : (s.setTag p t).iptr = s.iptr := rfl
@[simp] theorem State.setTag_opc (s : State) (p : BitVec 3) (t : Tag) : (s.setTag p t).opc = s.opc := rfl
@[simp] theorem State.setTag_dptr (s : State) (p : BitVec 3) (t : Tag) : (s.setTag p t).dptr = s.dptr := rfl
@[simp] theorem State.setTag_neu (s : State) (p : BitVec 3) (t : Tag) : (s.setTag p t).neu = s.neu := rfl
@[simp] theorem State.setTag_pending (s : State) (p : BitVec 3) (t : Tag) : (s.setTag p t).pending = s.pending := rfl
@[simp] theorem State.setTag_queued (s : State) (p : BitVec 3) (t : Tag) : (s.setTag p t).queued = s.queued := rfl
@[simp] theorem State.setTag_port (s : State) (p : BitVec 3) (t : Tag) : (s.setTag p t).port = s.port := rfl
@[simp] theorem State.setTag_inbox (s : State) (p : BitVec 3) (t : Tag) : (s.setTag p t).inbox = s.inbox := rfl
@[simp] theorem State.setTag_mem (s : State) (p : BitVec 3) (t : Tag) : (s.setTag p t).mem = s.mem := rfl
@[simp] theorem State.setTag_cpuData (s : State) (p : BitVec 3) (t : Tag) : (s.setTag p t).cpuData = s.cpuData := rfl
@[simp] theorem State.setTag_storing (s : State) (p : BitVec 3) (t : Tag) : (s.setTag p t).storing = s.storing := rfl
@[simp] theorem State.setTag_code (s : State) (p : BitVec 3) (t : Tag) : (s.setTag p t).code = s.code := rfl
@[simp] theorem State.setTag_conf (s : State) (p : BitVec 3) (t : Tag) : (s.setTag p t).conf = s.conf := rfl
@[simp] theorem State.setTag_draws (s : State) (p : BitVec 3) (t : Tag) : (s.setTag p t).draws = s.draws := rfl

/-! ### setTop -/

@[simp] theorem State.setTop_regs (s : State) (t : BitVec 3) : (s.setTop t).regs = s.regs := rfl
@[simp] theorem State.setTop_tags (s : State) (t : BitVec 3) : (s.setTop t).tags = s.tags := rfl
@[simp] theorem State.setTop_sw (s : State) (t : BitVec 3) : (s.setTop t).sw = { s.sw with top := t } := rfl
@[simp] theorem State.setTop_cw (s : State) (t : BitVec 3) : (s.setTop t).cw = s.cw := rfl
@[simp] theorem State.setTop_iptr (s : State) (t : BitVec 3) : (s.setTop t).iptr = s.iptr := rfl
@[simp] theorem State.setTop_opc (s : State) (t : BitVec 3) : (s.setTop t).opc = s.opc := rfl
@[simp] theorem State.setTop_dptr (s : State) (t : BitVec 3) : (s.setTop t).dptr = s.dptr := rfl
@[simp] theorem State.setTop_neu (s : State) (t : BitVec 3) : (s.setTop t).neu = s.neu := rfl
@[simp] theorem State.setTop_pending (s : State) (t : BitVec 3) : (s.setTop t).pending = s.pending := rfl
@[simp] theorem State.setTop_queued (s : State) (t : BitVec 3) : (s.setTop t).queued = s.queued := rfl
@[simp] theorem State.setTop_port (s : State) (t : BitVec 3) : (s.setTop t).port = s.port := rfl
@[simp] theorem State.setTop_inbox (s : State) (t : BitVec 3) : (s.setTop t).inbox = s.inbox := rfl
@[simp] theorem State.setTop_mem (s : State) (t : BitVec 3) : (s.setTop t).mem = s.mem := rfl
@[simp] theorem State.setTop_cpuData (s : State) (t : BitVec 3) : (s.setTop t).cpuData = s.cpuData := rfl
@[simp] theorem State.setTop_storing (s : State) (t : BitVec 3) : (s.setTop t).storing = s.storing := rfl
@[simp] theorem State.setTop_code (s : State) (t : BitVec 3) : (s.setTop t).code = s.code := rfl
@[simp] theorem State.setTop_conf (s : State) (t : BitVec 3) : (s.setTop t).conf = s.conf := rfl
@[simp] theorem State.setTop_draws (s : State) (t : BitVec 3) : (s.setTop t).draws = s.draws := rfl

/-! ### writeSt -/

@[simp] theorem State.writeSt_sw (s : State) (i : BitVec 3) (v : TReal) : (s.writeSt i v).sw = s.sw := rfl
@[simp] theorem State.writeSt_cw (s : State) (i : BitVec 3) (v : TReal) : (s.writeSt i v).cw = s.cw := rfl
@[simp] theorem State.writeSt_iptr (s : State) (i : BitVec 3) (v : TReal) : (s.writeSt i v).iptr = s.iptr := rfl
@[simp] theorem State.writeSt_opc (s : State) (i : BitVec 3) (v : TReal) : (s.writeSt i v).opc = s.opc := rfl
@[simp] theorem State.writeSt_dptr (s : State) (i : BitVec 3) (v : TReal) : (s.writeSt i v).dptr = s.dptr := rfl
@[simp] theorem State.writeSt_neu (s : State) (i : BitVec 3) (v : TReal) : (s.writeSt i v).neu = s.neu := rfl
@[simp] theorem State.writeSt_pending (s : State) (i : BitVec 3) (v : TReal) : (s.writeSt i v).pending = s.pending := rfl
@[simp] theorem State.writeSt_queued (s : State) (i : BitVec 3) (v : TReal) : (s.writeSt i v).queued = s.queued := rfl
@[simp] theorem State.writeSt_port (s : State) (i : BitVec 3) (v : TReal) : (s.writeSt i v).port = s.port := rfl
@[simp] theorem State.writeSt_inbox (s : State) (i : BitVec 3) (v : TReal) : (s.writeSt i v).inbox = s.inbox := rfl
@[simp] theorem State.writeSt_mem (s : State) (i : BitVec 3) (v : TReal) : (s.writeSt i v).mem = s.mem := rfl
@[simp] theorem State.writeSt_cpuData (s : State) (i : BitVec 3) (v : TReal) : (s.writeSt i v).cpuData = s.cpuData := rfl
@[simp] theorem State.writeSt_storing (s : State) (i : BitVec 3) (v : TReal) : (s.writeSt i v).storing = s.storing := rfl
@[simp] theorem State.writeSt_code (s : State) (i : BitVec 3) (v : TReal) : (s.writeSt i v).code = s.code := rfl
@[simp] theorem State.writeSt_conf (s : State) (i : BitVec 3) (v : TReal) : (s.writeSt i v).conf = s.conf := rfl
@[simp] theorem State.writeSt_draws (s : State) (i : BitVec 3) (v : TReal) : (s.writeSt i v).draws = s.draws := rfl

/-! ### pushTagged -/

@[simp] theorem State.pushTagged_sw (s : State) (v : TReal) (t : Tag) : (s.pushTagged v t).sw = { s.sw with top := s.sw.top - 1 } := rfl
@[simp] theorem State.pushTagged_cw (s : State) (v : TReal) (t : Tag) : (s.pushTagged v t).cw = s.cw := rfl
@[simp] theorem State.pushTagged_iptr (s : State) (v : TReal) (t : Tag) : (s.pushTagged v t).iptr = s.iptr := rfl
@[simp] theorem State.pushTagged_opc (s : State) (v : TReal) (t : Tag) : (s.pushTagged v t).opc = s.opc := rfl
@[simp] theorem State.pushTagged_dptr (s : State) (v : TReal) (t : Tag) : (s.pushTagged v t).dptr = s.dptr := rfl
@[simp] theorem State.pushTagged_neu (s : State) (v : TReal) (t : Tag) : (s.pushTagged v t).neu = s.neu := rfl
@[simp] theorem State.pushTagged_pending (s : State) (v : TReal) (t : Tag) : (s.pushTagged v t).pending = s.pending := rfl
@[simp] theorem State.pushTagged_queued (s : State) (v : TReal) (t : Tag) : (s.pushTagged v t).queued = s.queued := rfl
@[simp] theorem State.pushTagged_port (s : State) (v : TReal) (t : Tag) : (s.pushTagged v t).port = s.port := rfl
@[simp] theorem State.pushTagged_inbox (s : State) (v : TReal) (t : Tag) : (s.pushTagged v t).inbox = s.inbox := rfl
@[simp] theorem State.pushTagged_mem (s : State) (v : TReal) (t : Tag) : (s.pushTagged v t).mem = s.mem := rfl
@[simp] theorem State.pushTagged_cpuData (s : State) (v : TReal) (t : Tag) : (s.pushTagged v t).cpuData = s.cpuData := rfl
@[simp] theorem State.pushTagged_storing (s : State) (v : TReal) (t : Tag) : (s.pushTagged v t).storing = s.storing := rfl
@[simp] theorem State.pushTagged_code (s : State) (v : TReal) (t : Tag) : (s.pushTagged v t).code = s.code := rfl
@[simp] theorem State.pushTagged_conf (s : State) (v : TReal) (t : Tag) : (s.pushTagged v t).conf = s.conf := rfl
@[simp] theorem State.pushTagged_draws (s : State) (v : TReal) (t : Tag) : (s.pushTagged v t).draws = s.draws := rfl

/-! ### push -/

@[simp] theorem State.push_sw (s : State) (v : TReal) : (s.push v).sw = { s.sw with top := s.sw.top - 1 } := rfl
@[simp] theorem State.push_cw (s : State) (v : TReal) : (s.push v).cw = s.cw := rfl
@[simp] theorem State.push_iptr (s : State) (v : TReal) : (s.push v).iptr = s.iptr := rfl
@[simp] theorem State.push_opc (s : State) (v : TReal) : (s.push v).opc = s.opc := rfl
@[simp] theorem State.push_dptr (s : State) (v : TReal) : (s.push v).dptr = s.dptr := rfl
@[simp] theorem State.push_neu (s : State) (v : TReal) : (s.push v).neu = s.neu := rfl
@[simp] theorem State.push_pending (s : State) (v : TReal) : (s.push v).pending = s.pending := rfl
@[simp] theorem State.push_queued (s : State) (v : TReal) : (s.push v).queued = s.queued := rfl
@[simp] theorem State.push_port (s : State) (v : TReal) : (s.push v).port = s.port := rfl
@[simp] theorem State.push_inbox (s : State) (v : TReal) : (s.push v).inbox = s.inbox := rfl
@[simp] theorem State.push_mem (s : State) (v : TReal) : (s.push v).mem = s.mem := rfl
@[simp] theorem State.push_cpuData (s : State) (v : TReal) : (s.push v).cpuData = s.cpuData := rfl
@[simp] theorem State.push_storing (s : State) (v : TReal) : (s.push v).storing = s.storing := rfl
@[simp] theorem State.push_code (s : State) (v : TReal) : (s.push v).code = s.code := rfl
@[simp] theorem State.push_conf (s : State) (v : TReal) : (s.push v).conf = s.conf := rfl
@[simp] theorem State.push_draws (s : State) (v : TReal) : (s.push v).draws = s.draws := rfl

/-! ### pop -/

@[simp] theorem State.pop_regs (s : State) : (s.pop).regs = s.regs := rfl
@[simp] theorem State.pop_sw (s : State) : (s.pop).sw = { s.sw with top := s.sw.top + 1 } := rfl
@[simp] theorem State.pop_cw (s : State) : (s.pop).cw = s.cw := rfl
@[simp] theorem State.pop_iptr (s : State) : (s.pop).iptr = s.iptr := rfl
@[simp] theorem State.pop_opc (s : State) : (s.pop).opc = s.opc := rfl
@[simp] theorem State.pop_dptr (s : State) : (s.pop).dptr = s.dptr := rfl
@[simp] theorem State.pop_neu (s : State) : (s.pop).neu = s.neu := rfl
@[simp] theorem State.pop_pending (s : State) : (s.pop).pending = s.pending := rfl
@[simp] theorem State.pop_queued (s : State) : (s.pop).queued = s.queued := rfl
@[simp] theorem State.pop_port (s : State) : (s.pop).port = s.port := rfl
@[simp] theorem State.pop_inbox (s : State) : (s.pop).inbox = s.inbox := rfl
@[simp] theorem State.pop_mem (s : State) : (s.pop).mem = s.mem := rfl
@[simp] theorem State.pop_cpuData (s : State) : (s.pop).cpuData = s.cpuData := rfl
@[simp] theorem State.pop_storing (s : State) : (s.pop).storing = s.storing := rfl
@[simp] theorem State.pop_code (s : State) : (s.pop).code = s.code := rfl
@[simp] theorem State.pop_conf (s : State) : (s.pop).conf = s.conf := rfl
@[simp] theorem State.pop_draws (s : State) : (s.pop).draws = s.draws := rfl

/-! ### store -/

@[simp] theorem State.store_regs (s : State) (a n v : Nat) : (s.store a n v).regs = s.regs := rfl
@[simp] theorem State.store_tags (s : State) (a n v : Nat) : (s.store a n v).tags = s.tags := rfl
@[simp] theorem State.store_sw (s : State) (a n v : Nat) : (s.store a n v).sw = s.sw := rfl
@[simp] theorem State.store_cw (s : State) (a n v : Nat) : (s.store a n v).cw = s.cw := rfl
@[simp] theorem State.store_iptr (s : State) (a n v : Nat) : (s.store a n v).iptr = s.iptr := rfl
@[simp] theorem State.store_opc (s : State) (a n v : Nat) : (s.store a n v).opc = s.opc := rfl
@[simp] theorem State.store_dptr (s : State) (a n v : Nat) : (s.store a n v).dptr = s.dptr := rfl
@[simp] theorem State.store_neu (s : State) (a n v : Nat) : (s.store a n v).neu = s.neu := rfl
@[simp] theorem State.store_pending (s : State) (a n v : Nat) : (s.store a n v).pending = s.pending := rfl
@[simp] theorem State.store_queued (s : State) (a n v : Nat) : (s.store a n v).queued = s.queued := rfl
@[simp] theorem State.store_port (s : State) (a n v : Nat) : (s.store a n v).port = s.port := rfl
@[simp] theorem State.store_inbox (s : State) (a n v : Nat) : (s.store a n v).inbox = s.inbox := rfl
@[simp] theorem State.store_mem (s : State) (a n v : Nat) : (s.store a n v).mem = s.mem.writeLE a n v := rfl
@[simp] theorem State.store_cpuData (s : State) (a n v : Nat) : (s.store a n v).cpuData = s.cpuData := rfl
@[simp] theorem State.store_storing (s : State) (a n v : Nat) : (s.store a n v).storing = s.storing := rfl
@[simp] theorem State.store_code (s : State) (a n v : Nat) : (s.store a n v).code = s.code := rfl
@[simp] theorem State.store_conf (s : State) (a n v : Nat) : (s.store a n v).conf = s.conf := rfl
@[simp] theorem State.store_draws (s : State) (a n v : Nat) : (s.store a n v).draws = s.draws := rfl

/-! ### begin -/

@[simp] theorem State.begin_regs (s : State) (ea : Option Nat) : (s.begin ea).regs = s.regs := rfl
@[simp] theorem State.begin_tags (s : State) (ea : Option Nat) : (s.begin ea).tags = s.tags := rfl
@[simp] theorem State.begin_sw (s : State) (ea : Option Nat) : (s.begin ea).sw = s.sw := rfl
@[simp] theorem State.begin_cw (s : State) (ea : Option Nat) : (s.begin ea).cw = s.cw := rfl
@[simp] theorem State.begin_iptr (s : State) (ea : Option Nat) : (s.begin ea).iptr = if s.recordsPointers then s.port.ia else s.iptr := rfl
@[simp] theorem State.begin_opc (s : State) (ea : Option Nat) : (s.begin ea).opc = if s.recordsPointers then s.port.op else s.opc := rfl
@[simp] theorem State.begin_neu (s : State) (ea : Option Nat) : (s.begin ea).neu = s.neu := rfl
@[simp] theorem State.begin_pending (s : State) (ea : Option Nat) : (s.begin ea).pending = s.pending := rfl
@[simp] theorem State.begin_queued (s : State) (ea : Option Nat) : (s.begin ea).queued = s.queued := rfl
@[simp] theorem State.begin_port (s : State) (ea : Option Nat) : (s.begin ea).port = s.port := rfl
@[simp] theorem State.begin_inbox (s : State) (ea : Option Nat) : (s.begin ea).inbox = s.inbox := rfl
@[simp] theorem State.begin_mem (s : State) (ea : Option Nat) : (s.begin ea).mem = s.mem := rfl
@[simp] theorem State.begin_cpuData (s : State) (ea : Option Nat) : (s.begin ea).cpuData = s.cpuData := rfl
@[simp] theorem State.begin_storing (s : State) (ea : Option Nat) : (s.begin ea).storing = s.storing := rfl
@[simp] theorem State.begin_code (s : State) (ea : Option Nat) : (s.begin ea).code = s.code := rfl
@[simp] theorem State.begin_conf (s : State) (ea : Option Nat) : (s.begin ea).conf = s.conf := rfl
@[simp] theorem State.begin_draws (s : State) (ea : Option Nat) : (s.begin ea).draws = s.draws := rfl

/-! ### react -/

@[simp] theorem State.react_regs (s : State) : (s.react).regs = s.regs := rfl
@[simp] theorem State.react_tags (s : State) : (s.react).tags = s.tags := rfl
@[simp] theorem State.react_cw (s : State) : (s.react).cw = s.cw := rfl
@[simp] theorem State.react_iptr (s : State) : (s.react).iptr = s.iptr := rfl
@[simp] theorem State.react_opc (s : State) : (s.react).opc = s.opc := rfl
@[simp] theorem State.react_dptr (s : State) : (s.react).dptr = s.dptr := rfl
@[simp] theorem State.react_neu (s : State) : (s.react).neu = s.neu := rfl
@[simp] theorem State.react_pending (s : State) : (s.react).pending = s.conf.held s.cw.iem (s.sw.ex.unmasked s.cw.masks) := rfl
@[simp] theorem State.react_queued (s : State) : (s.react).queued = s.queued := rfl
@[simp] theorem State.react_port (s : State) : (s.react).port = s.port := rfl
@[simp] theorem State.react_inbox (s : State) : (s.react).inbox = s.inbox := rfl
@[simp] theorem State.react_mem (s : State) : (s.react).mem = s.mem := rfl
@[simp] theorem State.react_cpuData (s : State) : (s.react).cpuData = s.cpuData := rfl
@[simp] theorem State.react_storing (s : State) : (s.react).storing = s.storing := rfl
@[simp] theorem State.react_code (s : State) : (s.react).code = s.code := rfl
@[simp] theorem State.react_conf (s : State) : (s.react).conf = s.conf := rfl
@[simp] theorem State.react_draws (s : State) : (s.react).draws = s.draws := rfl

/-! ### conclude -/

@[simp] theorem State.conclude_regs (s : State) (ex : ExcSet) (code : BitVec 4) : (s.conclude ex code).regs = s.regs := rfl
@[simp] theorem State.conclude_tags (s : State) (ex : ExcSet) (code : BitVec 4) : (s.conclude ex code).tags = s.tags := rfl
@[simp] theorem State.conclude_cw (s : State) (ex : ExcSet) (code : BitVec 4) : (s.conclude ex code).cw = s.cw := rfl
@[simp] theorem State.conclude_iptr (s : State) (ex : ExcSet) (code : BitVec 4) : (s.conclude ex code).iptr = s.iptr := rfl
@[simp] theorem State.conclude_opc (s : State) (ex : ExcSet) (code : BitVec 4) : (s.conclude ex code).opc = s.opc := rfl
@[simp] theorem State.conclude_dptr (s : State) (ex : ExcSet) (code : BitVec 4) : (s.conclude ex code).dptr = s.dptr := rfl
@[simp] theorem State.conclude_neu (s : State) (ex : ExcSet) (code : BitVec 4) : (s.conclude ex code).neu = s.neu := rfl
@[simp] theorem State.conclude_pending (s : State) (ex : ExcSet) (code : BitVec 4) : (s.conclude ex code).pending = s.conf.held s.cw.iem ((s.sw.ex.union ex).unmasked s.cw.masks) := rfl
@[simp] theorem State.conclude_queued (s : State) (ex : ExcSet) (code : BitVec 4) : (s.conclude ex code).queued = s.queued := rfl
@[simp] theorem State.conclude_port (s : State) (ex : ExcSet) (code : BitVec 4) : (s.conclude ex code).port = s.port := rfl
@[simp] theorem State.conclude_inbox (s : State) (ex : ExcSet) (code : BitVec 4) : (s.conclude ex code).inbox = s.inbox := rfl
@[simp] theorem State.conclude_mem (s : State) (ex : ExcSet) (code : BitVec 4) : (s.conclude ex code).mem = s.mem := rfl
@[simp] theorem State.conclude_cpuData (s : State) (ex : ExcSet) (code : BitVec 4) : (s.conclude ex code).cpuData = s.cpuData := rfl
@[simp] theorem State.conclude_storing (s : State) (ex : ExcSet) (code : BitVec 4) : (s.conclude ex code).storing = s.storing := rfl
@[simp] theorem State.conclude_code (s : State) (ex : ExcSet) (code : BitVec 4) : (s.conclude ex code).code = s.code := rfl
@[simp] theorem State.conclude_conf (s : State) (ex : ExcSet) (code : BitVec 4) : (s.conclude ex code).conf = s.conf := rfl
@[simp] theorem State.conclude_draws (s : State) (ex : ExcSet) (code : BitVec 4) : (s.conclude ex code).draws = s.draws + 1 := rfl

/-! ### clearExceptions -/

@[simp] theorem State.clearExceptions_regs (s : State) : (s.clearExceptions).regs = s.regs := rfl
@[simp] theorem State.clearExceptions_tags (s : State) : (s.clearExceptions).tags = s.tags := rfl
@[simp] theorem State.clearExceptions_cw (s : State) : (s.clearExceptions).cw = s.cw := rfl
@[simp] theorem State.clearExceptions_iptr (s : State) : (s.clearExceptions).iptr = s.iptr := rfl
@[simp] theorem State.clearExceptions_opc (s : State) : (s.clearExceptions).opc = s.opc := rfl
@[simp] theorem State.clearExceptions_dptr (s : State) : (s.clearExceptions).dptr = s.dptr := rfl
@[simp] theorem State.clearExceptions_neu (s : State) : (s.clearExceptions).neu = s.neu := rfl
@[simp] theorem State.clearExceptions_pending (s : State) : (s.clearExceptions).pending = s.conf.held s.cw.iem (ExcSet.unmasked .none s.cw.masks) := rfl
@[simp] theorem State.clearExceptions_queued (s : State) : (s.clearExceptions).queued = s.queued := rfl
@[simp] theorem State.clearExceptions_port (s : State) : (s.clearExceptions).port = s.port := rfl
@[simp] theorem State.clearExceptions_inbox (s : State) : (s.clearExceptions).inbox = s.inbox := rfl
@[simp] theorem State.clearExceptions_mem (s : State) : (s.clearExceptions).mem = s.mem := rfl
@[simp] theorem State.clearExceptions_cpuData (s : State) : (s.clearExceptions).cpuData = s.cpuData := rfl
@[simp] theorem State.clearExceptions_storing (s : State) : (s.clearExceptions).storing = s.storing := rfl
@[simp] theorem State.clearExceptions_code (s : State) : (s.clearExceptions).code = s.code := rfl
@[simp] theorem State.clearExceptions_conf (s : State) : (s.clearExceptions).conf = s.conf := rfl
@[simp] theorem State.clearExceptions_draws (s : State) : (s.clearExceptions).draws = s.draws := rfl

/-! ### keepPointers -/

@[simp] theorem State.keepPointers_regs (s t : State) (i : Instr) : (s.keepPointers t i).regs = t.regs := by
  unfold State.keepPointers; split <;> rfl
@[simp] theorem State.keepPointers_tags (s t : State) (i : Instr) : (s.keepPointers t i).tags = t.tags := by
  unfold State.keepPointers; split <;> rfl
@[simp] theorem State.keepPointers_sw (s t : State) (i : Instr) : (s.keepPointers t i).sw = t.sw := by
  unfold State.keepPointers; split <;> rfl
@[simp] theorem State.keepPointers_cw (s t : State) (i : Instr) : (s.keepPointers t i).cw = t.cw := by
  unfold State.keepPointers; split <;> rfl
@[simp] theorem State.keepPointers_neu (s t : State) (i : Instr) : (s.keepPointers t i).neu = t.neu := by
  unfold State.keepPointers; split <;> rfl
@[simp] theorem State.keepPointers_pending (s t : State) (i : Instr) : (s.keepPointers t i).pending = t.pending := by
  unfold State.keepPointers; split <;> rfl
@[simp] theorem State.keepPointers_queued (s t : State) (i : Instr) : (s.keepPointers t i).queued = t.queued := by
  unfold State.keepPointers; split <;> rfl
@[simp] theorem State.keepPointers_port (s t : State) (i : Instr) : (s.keepPointers t i).port = t.port := by
  unfold State.keepPointers; split <;> rfl
@[simp] theorem State.keepPointers_inbox (s t : State) (i : Instr) : (s.keepPointers t i).inbox = t.inbox := by
  unfold State.keepPointers; split <;> rfl
@[simp] theorem State.keepPointers_mem (s t : State) (i : Instr) : (s.keepPointers t i).mem = t.mem := by
  unfold State.keepPointers; split <;> rfl
@[simp] theorem State.keepPointers_cpuData (s t : State) (i : Instr) : (s.keepPointers t i).cpuData = t.cpuData := by
  unfold State.keepPointers; split <;> rfl
@[simp] theorem State.keepPointers_storing (s t : State) (i : Instr) : (s.keepPointers t i).storing = t.storing := by
  unfold State.keepPointers; split <;> rfl
@[simp] theorem State.keepPointers_code (s t : State) (i : Instr) : (s.keepPointers t i).code = t.code := by
  unfold State.keepPointers; split <;> rfl
@[simp] theorem State.keepPointers_conf (s t : State) (i : Instr) : (s.keepPointers t i).conf = t.conf := by
  unfold State.keepPointers; split <;> rfl
@[simp] theorem State.keepPointers_draws (s t : State) (i : Instr) : (s.keepPointers t i).draws = t.draws := by
  unfold State.keepPointers; split <;> rfl

/-! ### The reserved bits of a loaded control word -/

@[simp] theorem Control.load_stored (b : Word) (free : BitVec 4) : Control.load .stored b free = Control.ofBits b := rfl
@[simp] theorem Control.load_undefined (b : Word) (free : BitVec 4) :
    Control.load .undefined b free = { Control.ofBits b with rsv := free } := rfl
/-- Whatever the setting, a loaded control word is that of the bits but for its reserved bits. -/
theorem Control.load_eq (kept : ReservedBits) (b : Word) (free : BitVec 4) :
    Control.load kept b free = { Control.ofBits b with rsv := (Control.load kept b free).rsv } := by
  cases kept <;> rfl

/-! ### loadControl -/

@[simp] theorem State.loadControl_regs (s : State) (a : Nat) : (s.loadControl a).regs = s.regs := rfl
@[simp] theorem State.loadControl_tags (s : State) (a : Nat) : (s.loadControl a).tags = s.tags := rfl
@[simp] theorem State.loadControl_sw (s : State) (a : Nat) : (s.loadControl a).sw = s.sw := rfl
@[simp] theorem State.loadControl_iptr (s : State) (a : Nat) : (s.loadControl a).iptr = s.iptr := rfl
@[simp] theorem State.loadControl_opc (s : State) (a : Nat) : (s.loadControl a).opc = s.opc := rfl
@[simp] theorem State.loadControl_dptr (s : State) (a : Nat) : (s.loadControl a).dptr = s.dptr := rfl
@[simp] theorem State.loadControl_neu (s : State) (a : Nat) : (s.loadControl a).neu = s.neu := rfl
@[simp] theorem State.loadControl_pending (s : State) (a : Nat) : (s.loadControl a).pending = s.pending := rfl
@[simp] theorem State.loadControl_queued (s : State) (a : Nat) : (s.loadControl a).queued = s.queued := rfl
@[simp] theorem State.loadControl_port (s : State) (a : Nat) : (s.loadControl a).port = s.port := rfl
@[simp] theorem State.loadControl_inbox (s : State) (a : Nat) : (s.loadControl a).inbox = s.inbox := rfl
@[simp] theorem State.loadControl_mem (s : State) (a : Nat) : (s.loadControl a).mem = s.mem := rfl
@[simp] theorem State.loadControl_cpuData (s : State) (a : Nat) : (s.loadControl a).cpuData = s.cpuData := rfl
@[simp] theorem State.loadControl_storing (s : State) (a : Nat) : (s.loadControl a).storing = s.storing := rfl
@[simp] theorem State.loadControl_code (s : State) (a : Nat) : (s.loadControl a).code = s.code := rfl
@[simp] theorem State.loadControl_conf (s : State) (a : Nat) : (s.loadControl a).conf = s.conf := rfl
@[simp] theorem State.loadControl_draws (s : State) (a : Nat) : (s.loadControl a).draws = s.draws + 1 := rfl

/-! ### storeEnv -/

@[simp] theorem State.storeEnv_regs (s : State) (a : Nat) : (s.storeEnv a).regs = s.regs := rfl
@[simp] theorem State.storeEnv_tags (s : State) (a : Nat) : (s.storeEnv a).tags = s.tags := rfl
@[simp] theorem State.storeEnv_sw (s : State) (a : Nat) : (s.storeEnv a).sw = s.sw := rfl
@[simp] theorem State.storeEnv_cw (s : State) (a : Nat) : (s.storeEnv a).cw = s.cw := rfl
@[simp] theorem State.storeEnv_iptr (s : State) (a : Nat) : (s.storeEnv a).iptr = s.iptr := rfl
@[simp] theorem State.storeEnv_opc (s : State) (a : Nat) : (s.storeEnv a).opc = s.opc := rfl
@[simp] theorem State.storeEnv_dptr (s : State) (a : Nat) : (s.storeEnv a).dptr = s.dptr := rfl
@[simp] theorem State.storeEnv_neu (s : State) (a : Nat) : (s.storeEnv a).neu = s.neu := rfl
@[simp] theorem State.storeEnv_pending (s : State) (a : Nat) : (s.storeEnv a).pending = s.pending := rfl
@[simp] theorem State.storeEnv_queued (s : State) (a : Nat) : (s.storeEnv a).queued = s.queued := rfl
@[simp] theorem State.storeEnv_port (s : State) (a : Nat) : (s.storeEnv a).port = s.port := rfl
@[simp] theorem State.storeEnv_inbox (s : State) (a : Nat) : (s.storeEnv a).inbox = s.inbox := rfl
@[simp] theorem State.storeEnv_mem (s : State) (a : Nat) : (s.storeEnv a).mem = s.mem.writeLE a 14 s.envImage.toNat := rfl
@[simp] theorem State.storeEnv_cpuData (s : State) (a : Nat) : (s.storeEnv a).cpuData = s.cpuData := rfl
@[simp] theorem State.storeEnv_storing (s : State) (a : Nat) : (s.storeEnv a).storing = s.storing := rfl
@[simp] theorem State.storeEnv_code (s : State) (a : Nat) : (s.storeEnv a).code = s.code := rfl
@[simp] theorem State.storeEnv_conf (s : State) (a : Nat) : (s.storeEnv a).conf = s.conf := rfl
@[simp] theorem State.storeEnv_draws (s : State) (a : Nat) : (s.storeEnv a).draws = s.draws + 1 := rfl

/-! ### loadEnv -/

@[simp] theorem State.loadEnv_regs (s : State) (a : Nat) : (s.loadEnv a).regs = s.regs := rfl
@[simp] theorem State.loadEnv_neu (s : State) (a : Nat) : (s.loadEnv a).neu = s.neu := rfl
@[simp] theorem State.loadEnv_pending (s : State) (a : Nat) : (s.loadEnv a).pending = s.pending := rfl
@[simp] theorem State.loadEnv_queued (s : State) (a : Nat) : (s.loadEnv a).queued = s.queued := rfl
@[simp] theorem State.loadEnv_port (s : State) (a : Nat) : (s.loadEnv a).port = s.port := rfl
@[simp] theorem State.loadEnv_inbox (s : State) (a : Nat) : (s.loadEnv a).inbox = s.inbox := rfl
@[simp] theorem State.loadEnv_mem (s : State) (a : Nat) : (s.loadEnv a).mem = s.mem := rfl
@[simp] theorem State.loadEnv_cpuData (s : State) (a : Nat) : (s.loadEnv a).cpuData = s.cpuData := rfl
@[simp] theorem State.loadEnv_storing (s : State) (a : Nat) : (s.loadEnv a).storing = s.storing := rfl
@[simp] theorem State.loadEnv_code (s : State) (a : Nat) : (s.loadEnv a).code = s.code := rfl
@[simp] theorem State.loadEnv_conf (s : State) (a : Nat) : (s.loadEnv a).conf = s.conf := rfl
@[simp] theorem State.loadEnv_draws (s : State) (a : Nat) : (s.loadEnv a).draws = s.draws + 1 := rfl

/-! ### initialize -/

@[simp] theorem State.initialize_regs (s : State) : (s.initialize).regs = s.regs := rfl
@[simp] theorem State.initialize_tags (s : State) : (s.initialize).tags = Vector.replicate 8 .empty := rfl
@[simp] theorem State.initialize_cw (s : State) : (s.initialize).cw = .init := rfl
@[simp] theorem State.initialize_iptr (s : State) : (s.initialize).iptr = s.iptr := rfl
@[simp] theorem State.initialize_opc (s : State) : (s.initialize).opc = s.opc := rfl
@[simp] theorem State.initialize_dptr (s : State) : (s.initialize).dptr = s.dptr := rfl
@[simp] theorem State.initialize_neu (s : State) : (s.initialize).neu = none := rfl
@[simp] theorem State.initialize_pending (s : State) : (s.initialize).pending = false := rfl
@[simp] theorem State.initialize_queued (s : State) : (s.initialize).queued = none := rfl
@[simp] theorem State.initialize_port (s : State) : (s.initialize).port = s.port := rfl
@[simp] theorem State.initialize_inbox (s : State) : (s.initialize).inbox = s.inbox := rfl
@[simp] theorem State.initialize_mem (s : State) : (s.initialize).mem = s.mem := rfl
@[simp] theorem State.initialize_cpuData (s : State) : (s.initialize).cpuData = s.cpuData := rfl
@[simp] theorem State.initialize_storing (s : State) : (s.initialize).storing = s.storing := rfl
@[simp] theorem State.initialize_code (s : State) : (s.initialize).code = s.code := rfl
@[simp] theorem State.initialize_conf (s : State) : (s.initialize).conf = s.conf := rfl
@[simp] theorem State.initialize_draws (s : State) : (s.initialize).draws = s.draws + 1 := rfl

/-! ### present -/

@[simp] theorem State.present_regs (s : State) (e : Event) (rest : List Input) : (s.present e rest).regs = s.regs := rfl
@[simp] theorem State.present_tags (s : State) (e : Event) (rest : List Input) : (s.present e rest).tags = s.tags := rfl
@[simp] theorem State.present_sw (s : State) (e : Event) (rest : List Input) : (s.present e rest).sw = s.sw := rfl
@[simp] theorem State.present_cw (s : State) (e : Event) (rest : List Input) : (s.present e rest).cw = s.cw := rfl
@[simp] theorem State.present_iptr (s : State) (e : Event) (rest : List Input) : (s.present e rest).iptr = s.iptr := rfl
@[simp] theorem State.present_opc (s : State) (e : Event) (rest : List Input) : (s.present e rest).opc = s.opc := rfl
@[simp] theorem State.present_dptr (s : State) (e : Event) (rest : List Input) : (s.present e rest).dptr = s.dptr := rfl
@[simp] theorem State.present_neu (s : State) (e : Event) (rest : List Input) : (s.present e rest).neu = s.neu := rfl
@[simp] theorem State.present_pending (s : State) (e : Event) (rest : List Input) : (s.present e rest).pending = s.pending := rfl
@[simp] theorem State.present_queued (s : State) (e : Event) (rest : List Input) : (s.present e rest).queued = s.queued := rfl
@[simp] theorem State.present_port (s : State) (e : Event) (rest : List Input) : (s.present e rest).port = ⟨e.ia, opcode11 e.escape, e.seg, e.cpu⟩ := rfl
@[simp] theorem State.present_inbox (s : State) (e : Event) (rest : List Input) : (s.present e rest).inbox = rest := rfl
@[simp] theorem State.present_mem (s : State) (e : Event) (rest : List Input) : (s.present e rest).mem = s.mem := rfl
@[simp] theorem State.present_cpuData (s : State) (e : Event) (rest : List Input) : (s.present e rest).cpuData = s.cpuData := rfl
@[simp] theorem State.present_storing (s : State) (e : Event) (rest : List Input) : (s.present e rest).storing = if e.fences then [] else s.storing := rfl
@[simp] theorem State.present_conf (s : State) (e : Event) (rest : List Input) : (s.present e rest).conf = s.conf := rfl
@[simp] theorem State.present_draws (s : State) (e : Event) (rest : List Input) : (s.present e rest).draws = s.draws := rfl

/-! ### touch -/

@[simp] theorem State.touch_regs (s : State) (xs : List Nat) : (s.touch xs).regs = s.regs := rfl
@[simp] theorem State.touch_tags (s : State) (xs : List Nat) : (s.touch xs).tags = s.tags := rfl
@[simp] theorem State.touch_sw (s : State) (xs : List Nat) : (s.touch xs).sw = s.sw := rfl
@[simp] theorem State.touch_cw (s : State) (xs : List Nat) : (s.touch xs).cw = s.cw := rfl
@[simp] theorem State.touch_iptr (s : State) (xs : List Nat) : (s.touch xs).iptr = s.iptr := rfl
@[simp] theorem State.touch_opc (s : State) (xs : List Nat) : (s.touch xs).opc = s.opc := rfl
@[simp] theorem State.touch_dptr (s : State) (xs : List Nat) : (s.touch xs).dptr = s.dptr := rfl
@[simp] theorem State.touch_neu (s : State) (xs : List Nat) : (s.touch xs).neu = s.neu.map (·.touch xs) := rfl
@[simp] theorem State.touch_pending (s : State) (xs : List Nat) : (s.touch xs).pending = s.pending := rfl
@[simp] theorem State.touch_queued (s : State) (xs : List Nat) : (s.touch xs).queued = s.queued.map (·.touch xs) := rfl
@[simp] theorem State.touch_port (s : State) (xs : List Nat) : (s.touch xs).port = s.port := rfl
@[simp] theorem State.touch_inbox (s : State) (xs : List Nat) : (s.touch xs).inbox = s.inbox := rfl
@[simp] theorem State.touch_mem (s : State) (xs : List Nat) : (s.touch xs).mem = s.mem := rfl
@[simp] theorem State.touch_cpuData (s : State) (xs : List Nat) : (s.touch xs).cpuData = s.cpuData := rfl
@[simp] theorem State.touch_storing (s : State) (xs : List Nat) : (s.touch xs).storing = s.storing := rfl
@[simp] theorem State.touch_code (s : State) (xs : List Nat) : (s.touch xs).code = s.code := rfl
@[simp] theorem State.touch_conf (s : State) (xs : List Nat) : (s.touch xs).conf = s.conf := rfl
@[simp] theorem State.touch_draws (s : State) (xs : List Nat) : (s.touch xs).draws = s.draws := rfl

/-! ### inTransit -/

@[simp] theorem State.inTransit_regs (s : State) (old new : Memory) (j : Job) : (s.inTransit old new j).regs = s.regs := rfl
@[simp] theorem State.inTransit_tags (s : State) (old new : Memory) (j : Job) : (s.inTransit old new j).tags = s.tags := rfl
@[simp] theorem State.inTransit_sw (s : State) (old new : Memory) (j : Job) : (s.inTransit old new j).sw = s.sw := rfl
@[simp] theorem State.inTransit_cw (s : State) (old new : Memory) (j : Job) : (s.inTransit old new j).cw = s.cw := rfl
@[simp] theorem State.inTransit_iptr (s : State) (old new : Memory) (j : Job) : (s.inTransit old new j).iptr = s.iptr := rfl
@[simp] theorem State.inTransit_opc (s : State) (old new : Memory) (j : Job) : (s.inTransit old new j).opc = s.opc := rfl
@[simp] theorem State.inTransit_dptr (s : State) (old new : Memory) (j : Job) : (s.inTransit old new j).dptr = s.dptr := rfl
@[simp] theorem State.inTransit_neu (s : State) (old new : Memory) (j : Job) : (s.inTransit old new j).neu = s.neu := rfl
@[simp] theorem State.inTransit_pending (s : State) (old new : Memory) (j : Job) : (s.inTransit old new j).pending = s.pending := rfl
@[simp] theorem State.inTransit_queued (s : State) (old new : Memory) (j : Job) : (s.inTransit old new j).queued = s.queued := rfl
@[simp] theorem State.inTransit_port (s : State) (old new : Memory) (j : Job) : (s.inTransit old new j).port = s.port := rfl
@[simp] theorem State.inTransit_inbox (s : State) (old new : Memory) (j : Job) : (s.inTransit old new j).inbox = s.inbox := rfl
@[simp] theorem State.inTransit_mem (s : State) (old new : Memory) (j : Job) : (s.inTransit old new j).mem = s.mem := rfl
@[simp] theorem State.inTransit_cpuData (s : State) (old new : Memory) (j : Job) : (s.inTransit old new j).cpuData = s.cpuData := rfl
@[simp] theorem State.inTransit_code (s : State) (old new : Memory) (j : Job) : (s.inTransit old new j).code = s.code := rfl
@[simp] theorem State.inTransit_conf (s : State) (old new : Memory) (j : Job) : (s.inTransit old new j).conf = s.conf := rfl
@[simp] theorem State.inTransit_draws (s : State) (old new : Memory) (j : Job) : (s.inTransit old new j).draws = s.draws := rfl

/-! ### The parts of the status word -/

@[simp] theorem State.react_ex (s : State) : s.react.sw.ex = s.sw.ex := rfl
@[simp] theorem State.react_top (s : State) : s.react.sw.top = s.sw.top := rfl
@[simp] theorem State.react_condition (s : State) : s.react.sw.code = s.sw.code := rfl
@[simp] theorem Status.withCode_ex (w : Status) (c : BitVec 4) : (w.withCode c).ex = w.ex := rfl
@[simp] theorem Status.withCode_top (w : Status) (c : BitVec 4) : (w.withCode c).top = w.top := rfl
@[simp] theorem State.conclude_ex (s : State) (ex : ExcSet) (code : BitVec 4) :
    (s.conclude ex code).sw.ex = s.sw.ex.union ex := rfl
@[simp] theorem State.conclude_top (s : State) (ex : ExcSet) (code : BitVec 4) :
    (s.conclude ex code).sw.top = s.sw.top := rfl
@[simp] theorem State.react_ir (s : State) :
    s.react.sw.ir = s.conf.request s.cw.iem (s.sw.ex.unmasked s.cw.masks) := rfl
@[simp] theorem State.react_busy (s : State) :
    s.react.sw.busy = (s.neu.isSome || s.conf.held s.cw.iem (s.sw.ex.unmasked s.cw.masks)) := rfl
@[simp] theorem State.conclude_ir (s : State) (ex : ExcSet) (code : BitVec 4) :
    (s.conclude ex code).sw.ir = s.conf.request s.cw.iem ((s.sw.ex.union ex).unmasked s.cw.masks) := rfl
@[simp] theorem State.conclude_busy (s : State) (ex : ExcSet) (code : BitVec 4) :
    (s.conclude ex code).sw.busy =
      (s.neu.isSome || s.conf.held s.cw.iem ((s.sw.ex.union ex).unmasked s.cw.masks)) := rfl
@[simp] theorem Settings.held_false (c : Settings) (iem : Bool) : c.held iem false = false := by
  unfold Settings.held; split <;> rfl
@[simp] theorem Settings.request_false (c : Settings) (iem : Bool) : c.request iem false = false := by
  unfold Settings.request; split <;> rfl
@[simp] theorem State.clearExceptions_ex (s : State) : s.clearExceptions.sw.ex = .none := rfl
@[simp] theorem State.clearExceptions_top (s : State) : s.clearExceptions.sw.top = s.sw.top := rfl

/-- Setting the condition code and reading it back. -/
@[simp] theorem Status.code_withCode (w : Status) (c : BitVec 4) : (w.withCode c).code = c := by
  simp only [Status.code, Status.withCode]
  revert c; decide

@[simp] theorem State.conclude_condition (s : State) (ex : ExcSet) (code : BitVec 4) :
    (s.conclude ex code).sw.code = code := Status.code_withCode s.sw code

/-! ### Registers and tags after a write -/

theorem State.reg_setReg (s : State) (p q : BitVec 3) (v : TReal) (t : Tag) :
    (s.setReg p v t).reg q = if q = p then v else s.reg q := by
  unfold State.reg State.setReg
  simp only [Vector.get_eq_getElem, Vector.getElem_set]
  by_cases h : q = p
  · simp [h]
  · have : ¬ (p.toFin : Nat) = (q.toFin : Nat) := fun e => h (BitVec.eq_of_toNat_eq e.symm)
    simp only [h, if_false]
    exact if_neg this

theorem State.tag_setReg (s : State) (p q : BitVec 3) (v : TReal) (t : Tag) :
    (s.setReg p v t).tag q = if q = p then t else s.tag q := by
  unfold State.tag State.setReg
  simp only [Vector.get_eq_getElem, Vector.getElem_set]
  by_cases h : q = p
  · simp [h]
  · have : ¬ (p.toFin : Nat) = (q.toFin : Nat) := fun e => h (BitVec.eq_of_toNat_eq e.symm)
    simp only [h, if_false]
    exact if_neg this

theorem State.tag_setTag (s : State) (p q : BitVec 3) (t : Tag) :
    (s.setTag p t).tag q = if q = p then t else s.tag q := by
  unfold State.tag State.setTag
  simp only [Vector.get_eq_getElem, Vector.getElem_set]
  by_cases h : q = p
  · simp [h]
  · have : ¬ (p.toFin : Nat) = (q.toFin : Nat) := fun e => h (BitVec.eq_of_toNat_eq e.symm)
    simp only [h, if_false]
    exact if_neg this

@[simp] theorem State.reg_setTag (s : State) (p q : BitVec 3) (t : Tag) : (s.setTag p t).reg q = s.reg q := rfl
@[simp] theorem State.reg_setTop (s : State) (t q : BitVec 3) : (s.setTop t).reg q = s.reg q := rfl
@[simp] theorem State.tag_setTop (s : State) (t q : BitVec 3) : (s.setTop t).tag q = s.tag q := rfl
@[simp] theorem State.reg_pop (s : State) (q : BitVec 3) : s.pop.reg q = s.reg q := rfl
@[simp] theorem State.reg_react (s : State) (q : BitVec 3) : s.react.reg q = s.reg q := rfl
@[simp] theorem State.tag_react (s : State) (q : BitVec 3) : s.react.tag q = s.tag q := rfl
@[simp] theorem State.reg_conclude (s : State) (ex : ExcSet) (c : BitVec 4) (q : BitVec 3) :
    (s.conclude ex c).reg q = s.reg q := rfl
@[simp] theorem State.tag_conclude (s : State) (ex : ExcSet) (c : BitVec 4) (q : BitVec 3) :
    (s.conclude ex c).tag q = s.tag q := rfl
@[simp] theorem State.reg_begin (s : State) (ea : Option Nat) (q : BitVec 3) : (s.begin ea).reg q = s.reg q := rfl
@[simp] theorem State.tag_begin (s : State) (ea : Option Nat) (q : BitVec 3) : (s.begin ea).tag q = s.tag q := rfl
@[simp] theorem State.reg_store (s : State) (a n v : Nat) (q : BitVec 3) : (s.store a n v).reg q = s.reg q := rfl
@[simp] theorem State.tag_store (s : State) (a n v : Nat) (q : BitVec 3) : (s.store a n v).tag q = s.tag q := rfl

theorem State.tag_pop (s : State) (q : BitVec 3) :
    s.pop.tag q = if q = s.sw.top then .empty else s.tag q := State.tag_setTag s s.sw.top q .empty

theorem State.reg_writeSt (s : State) (i q : BitVec 3) (v : TReal) :
    (s.writeSt i v).reg q = if q = s.phys i then v else s.reg q := State.reg_setReg s _ q v _

theorem State.tag_writeSt (s : State) (i q : BitVec 3) (v : TReal) :
    (s.writeSt i v).tag q = if q = s.phys i then tagOf v else s.tag q := State.tag_setReg s _ q v _

theorem State.reg_pushTagged (s : State) (v : TReal) (t : Tag) (q : BitVec 3) :
    (s.pushTagged v t).reg q = if q = s.sw.top - 1 then v else s.reg q := State.reg_setReg _ _ q v t

theorem State.tag_pushTagged (s : State) (v : TReal) (t : Tag) (q : BitVec 3) :
    (s.pushTagged v t).tag q = if q = s.sw.top - 1 then t else s.tag q := State.tag_setReg _ _ q v t

theorem State.reg_push (s : State) (v : TReal) (q : BitVec 3) :
    (s.push v).reg q = if q = s.sw.top - 1 then v else s.reg q := State.reg_pushTagged s v _ q

theorem State.tag_push (s : State) (v : TReal) (q : BitVec 3) :
    (s.push v).tag q = if q = s.sw.top - 1 then tagOf v else s.tag q := State.tag_pushTagged s v _ q

@[simp] theorem State.phys_def (s : State) (i : BitVec 3) : s.phys i = s.sw.top + i := rfl
theorem State.st_def (s : State) (i : BitVec 3) : s.st i = s.reg (s.sw.top + i) := rfl
theorem State.stTag_def (s : State) (i : BitVec 3) : s.stTag i = s.tag (s.sw.top + i) := rfl
theorem State.isEmpty_iff (s : State) (i : BitVec 3) : s.isEmpty i = true ↔ s.tag (s.sw.top + i) = .empty := by
  rw [State.isEmpty, State.stTag_def, decide_eq_true_iff]
theorem State.pushFull_iff (s : State) : s.pushFull = true ↔ s.tag (s.sw.top - 1) ≠ .empty := by
  simp [State.pushFull]

end Sys2Proof.Machine
end

