-- ==== Sys2Proof/Laws/Ops.lean ====
section
/-! SUPPORT. What each shared operation can do, said once: the exceptions found in the operands, the three
ways in which an instruction concludes, and the effects they are applied to. -/

namespace Sys2Proof.Machine

/-! ### Sets of exceptions -/

@[simp] theorem ExcSet.union_none (x : ExcSet) : x.union .none = x := by
  simp [ExcSet.union, ExcSet.none]

@[simp] theorem ExcSet.none_union (x : ExcSet) : ExcSet.union .none x = x := by
  simp [ExcSet.union, ExcSet.none]

@[simp] theorem ExcSet.unmasked_none (m : ExcSet) : ExcSet.unmasked .none m = false := by
  simp [ExcSet.unmasked, ExcSet.none]

theorem ExcSet.unmasked_union (x y m : ExcSet) : (x.union y).unmasked m = (x.unmasked m || y.unmasked m) := by
  simp only [ExcSet.unmasked, ExcSet.union]
  generalize (!m.i) = a, (!m.d) = b, (!m.z) = c, (!m.o) = d, (!m.u) = e, (!m.p) = f
  simp only [Bool.and_or_distrib_right]
  ac_rfl

/-- Only exceptions that are found in operands: I, D, Z (60_exceptions.md R484, the class "before"). -/
def ExcSet.beforeClass (x : ExcSet) : Prop := x.o = false ∧ x.u = false ∧ x.p = false

/-- Only exceptions of a result: O, U, P (R484, the class "after"). -/
def ExcSet.afterClass (x : ExcSet) : Prop := x.i = false ∧ x.d = false ∧ x.z = false

theorem ExcSet.screen_snd (x m : ExcSet) (h : x.beforeClass) : (x.screen m).2 = x.unmasked m := by
  obtain ⟨h1, h2, h3⟩ := h
  unfold ExcSet.screen ExcSet.unmasked
  rw [h1, h2, h3]
  cases x.i && !m.i <;> cases x.d && !m.d <;> cases x.z && !m.z <;> rfl

theorem ExcSet.screen_masked (x m : ExcSet) (h : x.beforeClass) (hm : x.unmasked m = false) :
    x.screen m = (x, false) := by
  have hs := ExcSet.screen_snd x m h
  obtain ⟨h1, h2, h3⟩ := h
  obtain ⟨i, d, z, o, u, p⟩ := x
  simp only at h1 h2 h3
  subst h1 h2 h3
  unfold ExcSet.screen at hs ⊢
  rw [hm] at hs
  split at hs
  · exact absurd hs (by simp)
  · rw [if_neg ‹_›]
    split at hs
    · exact absurd hs (by simp)
    · rw [if_neg ‹_›]
      split at hs
      · exact absurd hs (by simp)
      · rw [if_neg ‹_›]; rfl

/-- What is flagged was found, and is of the class "before". -/
theorem ExcSet.screen_fst_le (x m : ExcSet) :
    (x.screen m).1.beforeClass ∧ ((x.screen m).1.i = true → x.i = true) ∧
      ((x.screen m).1.d = true → x.d = true) ∧ ((x.screen m).1.z = true → x.z = true) := by
  unfold ExcSet.screen
  split
  · next h => simp_all [ExcSet.beforeClass, ExcSet.none]
  · split
    · next h => simp_all [ExcSet.beforeClass, ExcSet.none]
    · split
      · next h => simp_all [ExcSet.beforeClass, ExcSet.none]
      · simp [ExcSet.beforeClass, ExcSet.none]

/-- Where the instruction is abandoned, an unmasked exception is flagged. -/
theorem ExcSet.screen_unmasked (x m : ExcSet) (h : (x.screen m).2 = true) :
    (x.screen m).1.unmasked m = true := by
  unfold ExcSet.screen at h ⊢
  split at h
  · next h1 => rw [if_pos h1]; simp_all [ExcSet.unmasked, ExcSet.none]
  · next h1 =>
    rw [if_neg h1]
    split at h
    · next h2 => rw [if_pos h2]; simp_all [ExcSet.unmasked, ExcSet.none]
    · next h2 =>
      rw [if_neg h2]
      split at h
      · next h3 => rw [if_pos h3]; simp_all [ExcSet.unmasked, ExcSet.none]
      · exact absurd h (by simp)

/-- With an unmasked one among what was found, those up to it are flagged and the instruction is abandoned. -/
theorem ExcSet.screen_upTo (x m : ExcSet) (hb : x.beforeClass) (h : x.unmasked m = true) :
    x.screen m = (x.upTo m, true) := by
  obtain ⟨h1, h2, h3⟩ := hb
  obtain ⟨i, d, z, o, u, p⟩ := x
  obtain ⟨mi, md, mz, mo, mu, mp⟩ := m
  simp only at h1 h2 h3
  subst h1 h2 h3
  revert i d z mi md mz mo mu mp
  decide

/-! ### How an instruction concludes -/

/-- An instruction with results in registers either is abandoned, nothing but its flags written, or has
its effect; there is no third way. -/
theorem State.attemptCode_cases (s : State) (before after : ExcSet) (code : BitVec 4) (eff : State → State) :
    ((before.screen s.cw.masks).2 = true ∧
        s.attemptCode before after code eff = s.conclude (before.screen s.cw.masks).1 s.freeCode) ∨
    ((before.screen s.cw.masks).2 = false ∧
        s.attemptCode before after code eff =
          (eff s).conclude ((before.screen s.cw.masks).1.union after) code) := by
  unfold State.attemptCode
  cases h : (before.screen s.cw.masks).2
  · exact .inr ⟨rfl, if_neg (by simp [h])⟩
  · exact .inl ⟨rfl, if_pos h⟩

/-- With nothing unmasked found in the operands, the effect happens. -/
theorem State.attemptCode_proceeds (s : State) (before after : ExcSet) (code : BitVec 4)
    (eff : State → State) (hb : before.beforeClass) (hp : Proceeds s before) :
    s.attemptCode before after code eff = (eff s).conclude (before.union after) code := by
  unfold State.attemptCode
  rw [ExcSet.screen_masked before s.cw.masks hb hp]
  exact if_neg (by simp)

theorem State.attempt_proceeds (s : State) (before after : ExcSet) (eff : State → State)
    (hb : before.beforeClass) (hp : Proceeds s before) :
    s.attempt before after eff = (eff s).conclude (before.union after) s.freeCode :=
  s.attemptCode_proceeds before after s.freeCode eff hb hp

/-- A converting store either is abandoned or stopped, nothing but flags written, or stores. -/
theorem State.attemptStore_cases (s : State) (before after : ExcSet) (eff : State → State) :
    (∃ ex : ExcSet, s.attemptStore before after eff = s.conclude ex s.freeCode) ∨
    ((before.screen s.cw.masks).2 = false ∧ { after with p := false }.unmasked s.cw.masks = false ∧
        s.attemptStore before after eff =
          (eff s).conclude ((before.screen s.cw.masks).1.union after) s.freeCode) := by
  unfold State.attemptStore
  cases h : (before.screen s.cw.masks).2
  · cases hu : { after with p := false }.unmasked s.cw.masks
    · exact .inr ⟨rfl, rfl, by simp [h, hu]⟩
    · exact .inl ⟨_, by simp only [h, hu]; rfl⟩
  · exact .inl ⟨_, if_pos h⟩

/-- With nothing unmasked found in the operands, and no unmasked O or U, the store happens. -/
theorem State.attemptStore_proceeds (s : State) (before after : ExcSet) (eff : State → State)
    (hb : before.beforeClass) (hp : Proceeds s before)
    (ha : { after with p := false }.unmasked s.cw.masks = false) :
    s.attemptStore before after eff = (eff s).conclude (before.union after) s.freeCode := by
  unfold State.attemptStore
  rw [ExcSet.screen_masked before s.cw.masks hb hp]
  simp [ha]

/-! ### Effects: what they leave to the conclusion -/

/-- An effect moves only the stack and memory. -/
structure Effect (s t : State) : Prop where
  ex : t.sw.ex = s.sw.ex
  cw : t.cw = s.cw
  iptr : t.iptr = s.iptr
  opc : t.opc = s.opc
  dptr : t.dptr = s.dptr
  others : OthersKept s t
  draws : t.draws = s.draws

theorem OthersKept.refl (s : State) : OthersKept s s := ⟨rfl, rfl, rfl, rfl, rfl, rfl, rfl, rfl⟩

theorem OthersKept.trans {s t u : State} (h : OthersKept s t) (k : OthersKept t u) : OthersKept s u :=
  ⟨k.neu.trans h.neu, k.queue.trans h.queue, k.presented.trans h.presented, k.inbox.trans h.inbox,
    k.cpuData.trans h.cpuData, k.storing.trans h.storing, k.code.trans h.code, k.settings.trans h.settings⟩

theorem OthersKept.begin (s : State) (ea : Option Nat) : OthersKept s (s.begin ea) :=
  ⟨rfl, rfl, rfl, rfl, rfl, rfl, rfl, rfl⟩

theorem OthersKept.conclude (s : State) (ex : ExcSet) (code : BitVec 4) : OthersKept s (s.conclude ex code) :=
  ⟨rfl, rfl, rfl, rfl, rfl, rfl, rfl, rfl⟩

theorem Effect.refl (s : State) : Effect s s := ⟨rfl, rfl, rfl, rfl, rfl, .refl s, rfl⟩

theorem Effect.trans {s t u : State} (h : Effect s t) (k : Effect t u) : Effect s u :=
  ⟨k.ex.trans h.ex, k.cw.trans h.cw, k.iptr.trans h.iptr, k.opc.trans h.opc, k.dptr.trans h.dptr,
    h.others.trans k.others, k.draws.trans h.draws⟩

theorem Effect.setReg (s : State) (p : BitVec 3) (v : TReal) (t : Tag) : Effect s (s.setReg p v t) :=
  ⟨rfl, rfl, rfl, rfl, rfl, ⟨rfl, rfl, rfl, rfl, rfl, rfl, rfl, rfl⟩, rfl⟩

theorem Effect.setTag (s : State) (p : BitVec 3) (t : Tag) : Effect s (s.setTag p t) :=
  ⟨rfl, rfl, rfl, rfl, rfl, ⟨rfl, rfl, rfl, rfl, rfl, rfl, rfl, rfl⟩, rfl⟩

theorem Effect.setTop (s : State) (t : BitVec 3) : Effect s (s.setTop t) :=
  ⟨rfl, rfl, rfl, rfl, rfl, ⟨rfl, rfl, rfl, rfl, rfl, rfl, rfl, rfl⟩, rfl⟩

theorem Effect.writeSt (s : State) (i : BitVec 3) (v : TReal) : Effect s (s.writeSt i v) :=
  Effect.setReg s _ v _

theorem Effect.pushTagged (s : State) (v : TReal) (t : Tag) : Effect s (s.pushTagged v t) :=
  (Effect.setTop s _).trans (Effect.setReg _ _ v t)

theorem Effect.push (s : State) (v : TReal) : Effect s (s.push v) := Effect.pushTagged s v _

theorem Effect.pop (s : State) : Effect s s.pop := (Effect.setTag s _ _).trans (Effect.setTop _ _)

theorem Effect.popIf (s : State) (b : Bool) : Effect s (s.popIf b) := by
  cases b
  · exact Effect.refl s
  · exact Effect.pop s

theorem Effect.popN (s : State) (n : Nat) : Effect s (s.popN n) := by
  induction n generalizing s with
  | zero => exact Effect.refl s
  | succ n ih => exact (Effect.pop s).trans (ih s.pop)

theorem Effect.store (s : State) (a n v : Nat) : Effect s (s.store a n v) :=
  ⟨rfl, rfl, rfl, rfl, rfl, ⟨rfl, rfl, rfl, rfl, rfl, rfl, rfl, rfl⟩, rfl⟩

/-- What `react()` leaves. -/
theorem Reacted.react (s : State) : Reacted s.react := ⟨rfl, rfl, rfl⟩

theorem Reacted.conclude (s : State) (ex : ExcSet) (code : BitVec 4) : Reacted (s.conclude ex code) :=
  Reacted.react _

/-- What the start of an instruction records. -/
theorem Recorded.begin (s : State) (ea : Option Addr) : Recorded s (s.begin (ea.map BitVec.toNat)) ea where
  instruction := rfl
  opcode := rfl
  operand := by
    cases ea
    · exact (ite_self _).symm
    · simp [State.begin]

/-- An instruction that recorded itself, had an effect, and concluded, has run. -/
theorem Ran.of_conclude {s t : State} {ea : Option Addr} (h : Effect (s.begin (ea.map BitVec.toNat)) t)
    (ex : ExcSet) (code : BitVec 4) : Ran s (t.conclude ex code) ea ex where
  flags := congrArg (ExcSet.union · ex) h.ex
  reacted := .conclude ..
  control := h.cw
  recorded :=
    let r := Recorded.begin s ea
    ⟨h.iptr.trans r.instruction, h.opc.trans r.opcode, h.dptr.trans r.operand⟩
  others := ((OthersKept.begin s _).trans h.others).trans (.conclude t ex code)

/-! ### The memory operand -/

/-- Concluding with an unmasked exception, with nothing written, is being abandoned. -/
theorem Abandoned.of_conclude (s : State) (ea : Option Addr) (raised : ExcSet) (code : BitVec 4)
    (h : raised.unmasked s.cw.masks = true) :
    Abandoned s ((s.begin (ea.map BitVec.toNat)).conclude raised code) ea raised where
  ran := Ran.of_conclude (.refl _) raised code
  stack := ⟨rfl, fun _ => rfl, fun _ => rfl⟩
  memory _ := rfl
  pending hr := by
    have hu : (s.sw.ex.union raised).unmasked s.cw.masks = true := by
      rw [ExcSet.unmasked_union, h, Bool.or_true]
    refine (Reacted.conclude (s.begin (ea.map BitVec.toNat)) raised code).pending.trans ?_
    change s.conf.held s.cw.iem ((s.sw.ex.union raised).unmasked s.cw.masks) = true
    rw [hu]
    change s.conf.busyWhenIem = .hold ∨ s.cw.iem = false at hr
    unfold Settings.held
    rcases hr with hr | hr <;> rw [hr]
    cases s.conf.busyWhenIem <;> rfl

/-- An unmasked exception found in the operands abandons an instruction with results in registers. -/
theorem State.attemptCode_abandoned (s : State) (ea : Option Addr) (before after : ExcSet) (code : BitVec 4)
    (eff : State → State) (hb : before.beforeClass) (h : ¬ Proceeds s before) :
    Abandoned s ((s.begin (ea.map BitVec.toNat)).attemptCode before after code eff) ea (before.upTo s.cw.masks) := by
  have hs := ExcSet.screen_upTo before s.cw.masks hb (Bool.eq_true_of_not_eq_false h)
  have hu := ExcSet.screen_unmasked before s.cw.masks (congrArg Prod.snd hs)
  rw [hs] at hu
  unfold State.attemptCode
  rw [State.begin_cw, hs]
  exact Abandoned.of_conclude s ea _ _ hu

/-- The same of a converting store. -/
theorem State.attemptStore_abandoned (s : State) (ea : Option Addr) (before after : ExcSet) (eff : State → State)
    (hb : before.beforeClass) (h : ¬ Proceeds s before) :
    Abandoned s ((s.begin (ea.map BitVec.toNat)).attemptStore before after eff) ea (before.upTo s.cw.masks) := by
  have hs := ExcSet.screen_upTo before s.cw.masks hb (Bool.eq_true_of_not_eq_false h)
  have hu := ExcSet.screen_unmasked before s.cw.masks (congrArg Prod.snd hs)
  rw [hs] at hu
  unfold State.attemptStore
  rw [State.begin_cw, hs]
  exact Abandoned.of_conclude s ea _ _ hu

/-- An unmasked overflow or underflow of the conversion suppresses a store. -/
theorem State.attemptStore_suppressed (s : State) (ea : Option Addr) (before after : ExcSet) (eff : State → State)
    (hb : before.beforeClass) (hp : Proceeds s before) (h : { after with p := false }.unmasked s.cw.masks = true) :
    Abandoned s ((s.begin (ea.map BitVec.toNat)).attemptStore before after eff) ea
      (before.union { after with p := false }) := by
  unfold State.attemptStore
  rw [State.begin_cw, ExcSet.screen_masked before s.cw.masks hb hp]
  dsimp only
  rw [h, if_neg (by simp), if_pos rfl]
  exact Abandoned.of_conclude s ea _ _ (by rw [ExcSet.unmasked_union, h, Bool.or_true])

theorem mem_addresses (a n x : Nat) : x ∈ addresses a n ↔ a ≤ x ∧ x < a + n := by
  simp [addresses, List.mem_range'_1]

/-- An operand is refused by a fault exactly where it does not fit. -/
theorem State.operandStop_eq_none (s : State) (m : MemOp) (n : Nat) : s.operandStop m n = none ↔ s.Fits m n := by
  unfold State.operandStop State.Fits
  by_cases h : (s.ea m).toNat + n ≤ 2 ^ 20
  · rw [if_pos h, Option.map_eq_none_iff, List.find?_eq_none]
    constructor
    · intro hf
      refine ⟨h, fun x h1 h2 => ?_⟩
      simpa using hf x ((mem_addresses ..).mpr ⟨h1, h2⟩)
    · rintro ⟨-, hf⟩ x hx
      obtain ⟨h1, h2⟩ := (mem_addresses ..).mp hx
      simp [hf x h1 h2]
  · rw [if_neg h]
    exact ⟨fun e => absurd e (by simp), fun e => absurd e.1 h⟩

/-- An instruction with a memory operand that fits has the effect given. -/
theorem State.withOperand_fits (s : State) (m : MemOp) (n : Nat) (f : Nat → State) (h : s.Fits m n) :
    s.withOperand m n f = .next (f (s.ea m).toNat) := by
  unfold State.withOperand
  rw [(s.operandStop_eq_none m n).mpr h]

/-- One whose operand does not fit faults. -/
theorem State.withOperand_stops (s : State) (m : MemOp) (n : Nat) (f : Nat → State) (h : ¬ s.Fits m n) :
    ∃ r, s.operandStop m n = some r ∧ s.withOperand m n f = .fault r := by
  cases hs : s.operandStop m n with
  | none => exact absurd ((s.operandStop_eq_none m n).mp hs) h
  | some r => exact ⟨r, rfl, by unfold State.withOperand; rw [hs]⟩

/-- All that an instruction with a memory operand can do. -/
theorem State.withOperand_next (s t : State) (m : MemOp) (n : Nat) (f : Nat → State)
    (h : s.withOperand m n f = .next t) : s.Fits m n ∧ t = f (s.ea m).toNat := by
  unfold State.withOperand at h
  split at h
  · exact absurd h (by simp)
  · next hs => exact ⟨(s.operandStop_eq_none m n).mp hs, (Host.Outcome.next.inj h).symm⟩

/-- The program has no byte in an operand exactly where it is writable. -/
theorem State.program_eq_none (s : State) (m : MemOp) (n : Nat) :
    (addresses (s.ea m).toNat n).find? s.isProgram = none ↔ s.Writable m n := by
  rw [List.find?_eq_none]
  unfold State.Writable
  simp only [mem_addresses, Bool.not_eq_true, and_imp]

/-- A destination that fits, and where the instruction stores is writable, is written. -/
theorem State.withDestination_fits (s : State) (m : MemOp) (n : Nat) (writes : Bool) (f : Nat → State)
    (h : s.Fits m n) (hw : writes = true → s.Writable m n) :
    s.withDestination m n writes f = .next (f (s.ea m).toNat) := by
  unfold State.withDestination
  rw [(s.operandStop_eq_none m n).mpr h]
  cases writes
  · rfl
  · simp only [if_true, (s.program_eq_none m n).mpr (hw rfl)]

/-- All that an instruction with a destination in memory can do. -/
theorem State.withDestination_next (s t : State) (m : MemOp) (n : Nat) (writes : Bool) (f : Nat → State)
    (h : s.withDestination m n writes f = .next t) :
    s.Fits m n ∧ (writes = true → s.Writable m n) ∧ t = f (s.ea m).toNat := by
  unfold State.withDestination at h
  split at h
  · exact absurd h (by simp)
  · next hs =>
    refine ⟨(s.operandStop_eq_none m n).mp hs, ?_⟩
    split at h
    · exact absurd h (by simp)
    · next hp =>
      refine ⟨fun hw => ?_, (Host.Outcome.next.inj h).symm⟩
      subst hw
      exact (s.program_eq_none m n).mp hp

end Sys2Proof.Machine
end

