-- ==== Sys2Proof/Laws/Numerics.lean ====
section
/-! SUPPORT. Which exceptions the numeric functions can find in operands and which in results (the two
classes of spec/60_exceptions.md R484). -/

namespace Sys2Proof.Machine

theorem ExcSet.beforeClass_none : ExcSet.none.beforeClass := ⟨rfl, rfl, rfl⟩
theorem ExcSet.afterClass_none : ExcSet.none.afterClass := ⟨rfl, rfl, rfl⟩
theorem ExcSet.beforeClass_onlyI : ExcSet.onlyI.beforeClass := ⟨rfl, rfl, rfl⟩
theorem ExcSet.beforeClass_invalidIf (b : Bool) : (ExcSet.invalidIf b).beforeClass := ⟨rfl, rfl, rfl⟩

/-- The exceptions of a computation are of the class they are listed under. -/
structure Computed.Classed (c : Computed) : Prop where
  before : c.before.beforeClass
  after : c.after.afterClass

theorem Computed.classed_exact (v : TReal) : (Computed.exact v).Classed := ⟨⟨rfl, rfl, rfl⟩, ⟨rfl, rfl, rfl⟩⟩
theorem Computed.classed_invalid (v : TReal) : (Computed.invalid v).Classed := ⟨⟨rfl, rfl, rfl⟩, ⟨rfl, rfl, rfl⟩⟩
theorem Computed.classed_withD {c : Computed} (d : Bool) (h : c.Classed) : (c.withD d).Classed :=
  ⟨h.before, h.after⟩
theorem Computed.classed_ofDelivered {d : Delivered} (h : d.ex.afterClass) : (Computed.ofDelivered d).Classed :=
  ⟨⟨rfl, rfl, rfl⟩, h⟩
theorem openBefore_beforeClass (list masks : ExcSet) (a b : TReal) (r : OpenResult) :
    (openBefore list masks a b r).beforeClass := by
  unfold openBefore
  dsimp only
  split <;> exact ⟨rfl, rfl, rfl⟩
theorem classed_openComputed (op : OpenOp) (list : ExcSet) (cw : Control) (a b : TReal) :
    (openComputed op list cw a b).Classed := ⟨openBefore_beforeClass .., ⟨rfl, rfl, rfl⟩⟩

theorem deliver_afterClass (cw : Control) (p : Prec) (k : Nat) (neg : Bool) (x : Mag) :
    (deliver cw p k neg x).ex.afterClass := by
  unfold deliver underflow overflow
  repeat' split
  all_goals exact ⟨rfl, rfl, rfl⟩

theorem addFinite_classed (cw : Control) (k : Nat) (a b : TReal) : (addFinite cw k a b).Classed := by
  unfold addFinite
  dsimp only
  split
  · exact Computed.classed_exact _
  · exact Computed.classed_ofDelivered (deliver_afterClass ..)

theorem mulFinite_classed (cw : Control) (k : Nat) (a b : TReal) : (mulFinite cw k a b).Classed := by
  unfold mulFinite
  dsimp only
  split
  · exact Computed.classed_exact _
  · exact Computed.classed_ofDelivered (deliver_afterClass ..)

theorem divFinite_classed (cw : Control) (k : Nat) (a b : TReal) : (divFinite cw k a b).Classed := by
  unfold divFinite
  dsimp only
  split
  · split
    · exact Computed.classed_invalid _
    · exact ⟨⟨rfl, rfl, rfl⟩, ⟨rfl, rfl, rfl⟩⟩
  · split
    · exact Computed.classed_exact _
    · exact Computed.classed_ofDelivered (deliver_afterClass ..)

theorem arithOrdered_classed (list : ExcSet) (cw : Control) (k : Nat) (op : BasicOp) (nan a b : TReal) :
    (arithOrdered list cw k op nan a b).Classed := by
  unfold arithOrdered
  split
  · exact classed_openComputed ..
  · split
    · exact Computed.classed_invalid _
    · split
      · split
        · exact Computed.classed_exact _
        · exact Computed.classed_invalid _
      · split
        · exact addFinite_classed ..
        · exact addFinite_classed ..
        · exact mulFinite_classed ..
        · exact divFinite_classed ..

theorem arith_classed (list : ExcSet) (cw : Control) (k : Nat) (op : BasicOp) (rev : Bool) (dst src : TReal) :
    (arith list cw k op rev dst src).Classed := arithOrdered_classed ..

theorem basicResult_classed (s : State) (list : ExcSet) (op : BasicOp) (rev : Bool) (d : BitVec 3) (src : Source) :
    (s.basicResult list op rev d src).Classed := by
  unfold State.basicResult
  refine Computed.classed_withD _ ?_
  split
  · exact Computed.classed_invalid _
  · split
    · exact Computed.classed_invalid _
    · exact arith_classed ..

theorem sqrtOf_classed (cw : Control) (k : Nat) (a : TReal) : (sqrtOf cw k a).Classed := by
  unfold sqrtOf
  split
  · exact classed_openComputed ..
  · split
    · exact Computed.classed_invalid _
    · exact Computed.classed_exact _
    · split
      · exact Computed.classed_exact _
      · exact Computed.classed_invalid _
    · split
      · exact Computed.classed_invalid _
      · exact ⟨⟨rfl, rfl, rfl⟩, ⟨rfl, rfl, rfl⟩⟩

theorem scaleBy_classed (cw : Control) (k : Nat) (a x : TReal) : (scaleBy cw k a x).Classed := by
  unfold scaleBy
  split
  · exact Computed.classed_exact _
  · exact ⟨⟨rfl, rfl, rfl⟩, deliver_afterClass cw .p64 k _ _⟩
  · exact Computed.classed_invalid _
  all_goals exact classed_openComputed ..

theorem scaleOf_classed (cw : Control) (k : Nat) (a x : TReal) : (scaleOf cw k a x).Classed := by
  unfold scaleOf
  dsimp only
  split
  · exact ⟨⟨rfl, rfl, rfl⟩, ⟨rfl, rfl, rfl⟩⟩
  · split
    · exact classed_openComputed ..
    · split
      · exact Computed.classed_exact _
      · split
        · refine ⟨?_, ⟨rfl, rfl, rfl⟩⟩
          dsimp only
          split <;> exact ⟨rfl, rfl, rfl⟩
        · exact scaleBy_classed ..

theorem rndintOf_classed (cw : Control) (a : TReal) : (rndintOf cw a).Classed := by
  unfold rndintOf
  split
  · exact Computed.classed_invalid _
  · exact Computed.classed_exact _
  · exact Computed.classed_exact _
  · exact ⟨⟨rfl, rfl, rfl⟩, ⟨rfl, rfl, rfl⟩⟩
  all_goals exact classed_openComputed ..

theorem remainderOf_classed (cw : Control) (k : Nat) (neg : Bool) (r : Nat) (e : Int) :
    (remainderOf cw k neg r e).Classed := by
  unfold remainderOf
  split
  · exact Computed.classed_exact _
  · exact Computed.classed_ofDelivered (deliver_afterClass ..)

theorem premOf_classed (cw : Control) (k : Nat) (a b : TReal) : (premOf cw k a b).result.Classed := by
  unfold premOf premFinite
  dsimp only
  split
  · exact classed_openComputed ..
  · split
    · exact Computed.classed_invalid _
    · split
      · exact Computed.classed_invalid _
      · split
        · exact Computed.classed_exact _
        · split
          · exact remainderOf_classed ..
          · exact remainderOf_classed ..

theorem xtractOf_beforeClass (cw : Control) (a : TReal) : (xtractOf cw a).before.beforeClass := by
  unfold xtractOf
  split
  case h_1 | h_2 | h_3 => exact ⟨rfl, rfl, rfl⟩
  all_goals exact (classed_openComputed ..).before

theorem compareOutcome_beforeClass (s : State) (src : Source) : (s.compareOutcome src).2.beforeClass := by
  unfold State.compareOutcome
  split
  · exact ⟨rfl, rfl, rfl⟩
  · split <;> exact ⟨rfl, rfl, rfl⟩

/-- The exceptions of a converting store are of the class they are listed under. -/
structure Stored.Classed (x : Stored) : Prop where
  before : x.before.beforeClass
  after : x.after.afterClass

theorem openStored_classed (op : OpenStore) (list : ExcSet) (cw : Control) (r : TReal) :
    (openStored op list cw r).Classed := ⟨openBefore_beforeClass .., ⟨rfl, rfl, rfl⟩⟩

theorem intStored_classed (f : IntFmt) (v : Int) (exact : Bool) : (intStored f v exact).Classed := by
  unfold intStored
  split <;> exact ⟨⟨rfl, rfl, rfl⟩, ⟨rfl, rfl, rfl⟩⟩

theorem toInt_classed (cw : Control) (f : IntFmt) (r : TReal) : (toInt cw f r).Classed := by
  unfold toInt
  split
  case h_1 | h_2 => exact ⟨⟨rfl, rfl, rfl⟩, ⟨rfl, rfl, rfl⟩⟩
  case h_3 | h_4 => exact intStored_classed ..
  all_goals exact openStored_classed ..

theorem bcdStored_classed (k : Nat) (neg : Bool) (v : Nat) : (bcdStored k neg v).Classed := by
  unfold bcdStored
  split <;> exact ⟨⟨rfl, rfl, rfl⟩, ⟨rfl, rfl, rfl⟩⟩

theorem toBcd_classed (cw : Control) (k : Nat) (r : TReal) : (toBcd cw k r).Classed := by
  unfold toBcd
  split
  case h_1 | h_2 => exact ⟨⟨rfl, rfl, rfl⟩, ⟨rfl, rfl, rfl⟩⟩
  case h_3 | h_4 => exact bcdStored_classed ..
  all_goals exact openStored_classed ..

theorem roundReal_classed (cw : Control) (f : RealFmt) (neg : Bool) (x : Mag) : (roundReal cw f neg x).Classed := by
  unfold roundReal denormalizeReal
  dsimp only
  split
  · exact ⟨⟨rfl, rfl, rfl⟩, ⟨rfl, rfl, rfl⟩⟩
  · split <;> exact ⟨⟨rfl, rfl, rfl⟩, ⟨rfl, rfl, rfl⟩⟩

theorem toReal_classed (cw : Control) (f : RealFmt) (r : TReal) : (toReal cw f r).Classed := by
  unfold toReal
  split
  case h_7 => exact roundReal_classed ..
  all_goals exact ⟨⟨rfl, rfl, rfl⟩, ⟨rfl, rfl, rfl⟩⟩

theorem storedReal_classed (s : State) (f : RealFmt) : (s.storedReal f).Classed := by
  unfold State.storedReal
  split
  · exact ⟨⟨rfl, rfl, rfl⟩, ⟨rfl, rfl, rfl⟩⟩
  · exact toReal_classed ..

theorem storedTReal_classed (s : State) : s.storedTReal.Classed := by
  unfold State.storedTReal
  split <;> exact ⟨⟨rfl, rfl, rfl⟩, ⟨rfl, rfl, rfl⟩⟩

theorem storedInt_classed (s : State) (f : IntFmt) : (s.storedInt f).Classed := by
  unfold State.storedInt
  split
  · exact ⟨⟨rfl, rfl, rfl⟩, ⟨rfl, rfl, rfl⟩⟩
  · exact toInt_classed ..

theorem storedBcd_classed (s : State) : s.storedBcd.Classed := by
  unfold State.storedBcd
  split
  · exact ⟨⟨rfl, rfl, rfl⟩, ⟨rfl, rfl, rfl⟩⟩
  · exact toBcd_classed ..

/-- What a function raises is of the class "after". -/
def FunctionResult.Classed : FunctionResult → Prop
  | .result after _ => after.afterClass
  | .undefined _ => True

theorem tinyResult_classed (cw : Control) (e : Int) (r : TReal) : (tinyResult cw e r).Classed := ⟨rfl, rfl, rfl⟩

theorem patanOf_classed (cw : Control) (y x : TReal) : (patanOf cw y x).Classed := by
  unfold patanOf
  dsimp only
  split
  · trivial
  · split
    · exact tinyResult_classed ..
    · exact ⟨rfl, rfl, rfl⟩

theorem f2xm1Of_classed (cw : Control) (x : TReal) : (f2xm1Of cw x).Classed := by
  unfold f2xm1Of
  dsimp only
  split
  · exact ⟨rfl, rfl, rfl⟩
  · split
    · split
      · exact tinyResult_classed ..
      · exact ⟨rfl, rfl, rfl⟩
    · trivial

theorem yl2xOf_classed (cw : Control) (y x : TReal) : (yl2xOf cw y x).Classed := by
  unfold yl2xOf
  dsimp only
  split
  · trivial
  · split
    · exact ⟨rfl, rfl, rfl⟩
    · split
      · trivial
      · exact ⟨rfl, rfl, rfl⟩

theorem yl2xp1Of_classed (cw : Control) (y x : TReal) : (yl2xp1Of cw y x).Classed := by
  unfold yl2xp1Of
  dsimp only
  split
  · trivial
  · split
    · exact ⟨rfl, rfl, rfl⟩
    · split
      · trivial
      · exact ⟨rfl, rfl, rfl⟩

end Sys2Proof.Machine
end

