-- ==== Sys2Proof/Laws/Families.lean ====
section
/-! SUPPORT. What each shared operation of Machine/Ops.lean can do, said once: it concludes with some
exceptions and some condition code, after an effect that moves only the stack and the operand in memory. -/

namespace Sys2Proof.Machine

/-- `t` is `s` after an effect on the stack and on memory, concluded. -/
def Runs (s t : State) : Prop := ∃ (ex : ExcSet) (code : BitVec 4) (u : State), Effect s u ∧ t = u.conclude ex code

/-- `Runs` with memory left alone. -/
def RunsQuietly (s t : State) : Prop :=
  ∃ (ex : ExcSet) (code : BitVec 4) (u : State), Effect s u ∧ u.mem = s.mem ∧ t = u.conclude ex code

theorem RunsQuietly.runs {s t : State} (h : RunsQuietly s t) : Runs s t :=
  let ⟨ex, code, u, he, _, ht⟩ := h
  ⟨ex, code, u, he, ht⟩

theorem RunsQuietly.mem {s t : State} (h : RunsQuietly s t) : t.mem = s.mem := by
  obtain ⟨ex, code, u, -, hm, rfl⟩ := h
  exact hm

/-! ### The three conclusions -/

theorem State.attemptCode_runs (s : State) (before after : ExcSet) (code : BitVec 4) (eff : State → State)
    (he : Effect s (eff s)) (hm : (eff s).mem = s.mem) :
    RunsQuietly s (s.attemptCode before after code eff) := by
  rcases s.attemptCode_cases before after code eff with ⟨-, h⟩ | ⟨-, h⟩
  · exact ⟨_, _, s, Effect.refl s, rfl, h⟩
  · exact ⟨_, _, _, he, hm, h⟩

theorem State.attempt_runs (s : State) (before after : ExcSet) (eff : State → State)
    (he : Effect s (eff s)) (hm : (eff s).mem = s.mem) : RunsQuietly s (s.attempt before after eff) :=
  s.attemptCode_runs before after s.freeCode eff he hm

@[simp] theorem State.mem_popN (s : State) (n : Nat) : (s.popN n).mem = s.mem := by
  induction n generalizing s with
  | zero => rfl
  | succ n ih => exact ih s.pop

@[simp] theorem State.mem_popIf (s : State) (b : Bool) : (s.popIf b).mem = s.mem := by
  cases b <;> rfl

/-! ### Loads -/

theorem State.loadTagged_runs (s : State) (d : Bool) (v : TReal) (t : Tag) : RunsQuietly s (s.loadTagged d v t) := by
  refine s.attempt_runs _ _ _ ?_ ?_ <;> split
  exacts [Effect.push .., Effect.pushTagged .., rfl, rfl]

theorem State.loadReal_runs (s : State) (f : RealFmt) (a : Nat) : RunsQuietly s (s.loadReal f a) :=
  s.loadTagged_runs ..
theorem State.loadTReal_runs (s : State) (a : Nat) : RunsQuietly s (s.loadTReal a) := s.loadTagged_runs ..
theorem State.loadInt_runs (s : State) (f : IntFmt) (a : Nat) : RunsQuietly s (s.loadInt f a) :=
  s.loadTagged_runs ..
theorem State.loadValue_runs (s : State) (d : Bool) (v : TReal) : RunsQuietly s (s.loadValue d v) :=
  s.loadTagged_runs ..
theorem State.loadBcd_runs (s : State) (a : Nat) : RunsQuietly s (s.loadBcd a) := by
  unfold State.loadBcd
  dsimp only
  split <;> exact s.loadTagged_runs ..
theorem State.loadSt_runs (s : State) (i : BitVec 3) : RunsQuietly s (s.loadSt i) :=
  s.attempt_runs _ _ _ (Effect.push ..) rfl

/-! ### Stores and exchange -/

theorem State.storeSt_runs (s : State) (i : BitVec 3) (pop : Bool) : RunsQuietly s (s.storeSt i pop) := by
  refine s.attempt_runs _ _ _ ?_ ?_ <;> split
  · exact (Effect.writeSt ..).trans (Effect.popIf ..)
  · exact (Effect.setReg ..).trans (Effect.popIf ..)
  · exact State.mem_popIf ..
  · exact State.mem_popIf ..

theorem State.exchange_runs (s : State) (i : BitVec 3) : RunsQuietly s (s.exchange i) := by
  refine s.attempt_runs _ _ _ ?_ ?_
  · dsimp only
    refine Effect.trans ?_ ((Effect.setReg ..).trans (Effect.setReg ..))
    split <;> split
    · exact (Effect.writeSt ..).trans (Effect.writeSt ..)
    · exact Effect.writeSt ..
    · exact Effect.writeSt ..
    · exact Effect.refl s
  · dsimp only [State.setReg]
    split <;> split <;> rfl

/-- A converting store either leaves memory, or stores the bits and pops. -/
theorem State.storeBits_runs (s : State) (a n : Nat) (x : Stored) (pop : Bool) :
    Runs s (s.storeBits a n x pop) ∧
      ((s.storeBits a n x pop).mem = s.mem ∨ (s.storeBits a n x pop).mem = s.mem.writeLE a n x.bits) := by
  unfold State.storeBits
  rcases s.attemptStore_cases x.before x.after fun s => (s.store a n x.bits).popIf pop with
    ⟨ex, h⟩ | ⟨-, -, h⟩
  · exact ⟨⟨_, _, s, Effect.refl s, h⟩, .inl (by rw [h]; rfl)⟩
  · exact ⟨⟨_, _, _, (Effect.store ..).trans (Effect.popIf ..), h⟩, .inr (by
      rw [h]
      exact State.mem_popIf ..)⟩

/-- A suppressed store leaves memory (60_exceptions.md R479, R481). -/
theorem State.storeBits_suppressed (s : State) (a n : Nat) (x : Stored) (pop : Bool)
    (h : x.suppressed s.cw.masks = true) : (s.storeBits a n x pop).mem = s.mem := by
  unfold Stored.suppressed at h
  unfold State.storeBits
  rcases s.attemptStore_cases x.before x.after fun s => (s.store a n x.bits).popIf pop with
    ⟨ex, hc⟩ | ⟨h1, h2, -⟩
  · rw [hc]; rfl
  · rw [h1, h2] at h; exact absurd h (by simp)

/-- A store that no exception suppresses stores and pops. -/
theorem State.storeBits_unsuppressed (s : State) (a n : Nat) (x : Stored) (pop : Bool)
    (hx : x.before.beforeClass) (h : x.suppressed s.cw.masks = false) :
    s.storeBits a n x pop =
      ((s.store a n x.bits).popIf pop).conclude (x.before.union x.after) s.freeCode := by
  obtain ⟨h1, h2⟩ := Bool.or_eq_false_iff.mp h
  exact s.attemptStore_proceeds _ _ _ hx ((ExcSet.screen_snd x.before _ hx).symm.trans h1) h2

/-! ### Arithmetic -/

theorem State.writeResult_runs (s : State) (c : Computed) (d : BitVec 3) (pop : Bool) :
    RunsQuietly s (s.writeResult c d pop) :=
  s.attempt_runs _ _ _ ((Effect.writeSt ..).trans (Effect.popIf ..)) (State.mem_popIf ..)

theorem State.basic_runs (s : State) (list : ExcSet) (op : BasicOp) (rev : Bool) (d : BitVec 3) (src : Source)
    (pop : Bool) : RunsQuietly s (s.basic list op rev d src pop) := s.writeResult_runs ..

theorem State.unary_runs (s : State) (empty : Bool) (c : Computed) : RunsQuietly s (s.unary empty c) :=
  s.writeResult_runs ..

theorem State.premainder_runs (s : State) : RunsQuietly s s.premainder := by
  unfold State.premainder
  split
  · exact s.writeResult_runs ..
  · exact s.attemptCode_runs _ _ _ _ (Effect.writeSt ..) rfl

theorem State.extract_runs (s : State) : RunsQuietly s s.extract := by
  unfold State.extract
  split
  · refine s.attempt_runs _ _ _ ?_ ?_ <;> split
    exacts [Effect.writeSt .., (Effect.writeSt ..).trans (Effect.push ..), rfl, rfl]
  · split
    · exact s.attempt_runs _ _ _ ((Effect.writeSt ..).trans (Effect.push ..)) rfl
    · exact s.attempt_runs _ _ _ ((Effect.writeSt ..).trans (Effect.push ..)) rfl

theorem State.setSign_runs (s : State) (neg : Bool) : RunsQuietly s (s.setSign neg) := by
  refine s.attempt_runs _ _ _ ?_ ?_ <;> split
  exacts [Effect.writeSt .., Effect.setReg .., rfl, rfl]

/-! ### Comparison and functions -/

theorem State.compare_runs (s : State) (src : Source) (pops : Nat) : RunsQuietly s (s.compare src pops) :=
  s.attemptCode_runs _ _ _ (fun s => s.popN pops) (Effect.popN ..) (State.mem_popN ..)

theorem State.writeFunction_runs (s : State) (r : FunctionResult) (d : BitVec 3) (pop : Bool) :
    RunsQuietly s (s.writeFunction r d pop) := by
  cases r with
  | result after v => exact s.writeResult_runs ..
  | undefined p => exact s.attempt_runs _ _ _ ((Effect.setReg ..).trans (Effect.popIf ..)) (State.mem_popIf ..)

theorem State.function1_runs (s : State) (f : Control → TReal → FunctionResult) : RunsQuietly s (s.function1 f) := by
  unfold State.function1
  split
  · exact s.writeResult_runs ..
  · exact s.writeFunction_runs ..

theorem State.function2_runs (s : State) (f : Control → TReal → TReal → FunctionResult) :
    RunsQuietly s (s.function2 f) := by
  unfold State.function2
  split
  · exact s.writeResult_runs ..
  · exact s.writeFunction_runs ..

theorem State.tangent_runs (s : State) : RunsQuietly s s.tangent := by
  unfold State.tangent
  split
  · exact s.attempt_runs _ _ _ ((Effect.writeSt ..).trans (Effect.push ..)) rfl
  · split
    · exact s.attempt_runs _ _ _ ((Effect.writeSt ..).trans (Effect.push ..)) rfl
    · exact s.attempt_runs _ _ _ ((Effect.setReg ..).trans (Effect.pushTagged ..)) rfl

/-! ### Environment and state images -/

theorem State.storeStack_frame (s : State) (a n : Nat) :
    s.storeStack a n = { s with mem := (s.storeStack a n).mem } := by
  induction n with
  | zero => rfl
  | succ n ih =>
    rw [State.storeStack, State.store]
    conv_lhs => rw [ih]

/-- `ST(k)` lies after the registers nearer to the top. -/
theorem State.storeStack_mem (s : State) (a n : Nat) (ha : a + 10 * n ≤ 2 ^ 20) (h : s.mem.wf = true) :
    (s.storeStack a n).mem.wf = true ∧
    (∀ x, x < a ∨ a + 10 * n ≤ x → (s.storeStack a n).mem.read x = s.mem.read x) ∧
    ∀ k, k < n → (s.storeStack a n).mem.readLE (a + 10 * k) 10 = (s.st (BitVec.ofNat 3 k)).toNat := by
  induction n with
  | zero => exact ⟨h, fun _ _ => rfl, fun k hk => absurd hk (by omega)⟩
  | succ n ih =>
    obtain ⟨h1, h2, h3⟩ := ih (by omega)
    have hst : ∀ k : BitVec 3, (s.storeStack a n).st k = s.st k := fun k => by
      rw [State.storeStack_frame]; rfl
    refine ⟨Memory.wf_writeLE _ _ _ _ (by omega) h1, fun x hx => ?_, fun k hk => ?_⟩
    · exact (Memory.read_writeLE_outside _ _ _ _ _ (by omega) h1 (by omega)).trans (h2 x (by omega))
    · change ((s.storeStack a n).mem.writeLE (a + 10 * n) 10 _).readLE (a + 10 * k) 10 = _
      rcases Nat.lt_or_ge k n with hkn | hkn
      · rw [Memory.readLE_writeLE_apart _ _ _ _ _ _ (by omega) h1 (by omega), h3 k hkn]
      · obtain rfl : k = n := by omega
        rw [Memory.readLE_writeLE _ _ _ _ (by omega) h1]
        exact Nat.mod_eq_of_lt (s.st (BitVec.ofNat 3 k)).isLt

theorem State.loadStack_effect (s : State) (a n : Nat) :
    Effect s (s.loadStack a n) ∧ (s.loadStack a n).sw = s.sw ∧ (s.loadStack a n).mem = s.mem ∧
      ∀ p, (s.loadStack a n).tag p = s.tag p := by
  induction n with
  | zero => exact ⟨Effect.refl s, rfl, rfl, fun _ => rfl⟩
  | succ n ih =>
    obtain ⟨h1, h2, h3, h4⟩ := ih
    refine ⟨h1.trans (Effect.setReg ..), h2, h3, fun p => ?_⟩
    rw [State.loadStack, State.tag_setReg]
    split
    · next hp => rw [hp, h4]
    · exact h4 p

/-- Each register as it stood in the image. -/
theorem State.loadStack_st (s : State) (a n k : Nat) (hn : n ≤ 8) (hk : k < n) :
    (s.loadStack a n).st (BitVec.ofNat 3 k) = BitVec.ofNat 80 (s.load (a + 10 * k) 10) := by
  induction n with
  | zero => omega
  | succ n ih =>
    have hsw := (s.loadStack_effect a n).2.1
    rw [State.st_def, State.loadStack, State.reg_setReg, State.setReg_sw, State.phys_def]
    rcases Nat.lt_or_ge k n with hkn | hkn
    · rw [if_neg, ← State.st_def, ih (by omega) hkn]
      intro he
      have := congrArg BitVec.toNat ((BitVec.add_right_inj _).mp he)
      simp only [BitVec.toNat_ofNat] at this
      omega
    · obtain rfl : k = n := by omega
      rw [if_pos rfl]

end Sys2Proof.Machine
end

