-- ==== Sys2Proof/Laws/Exec.lean ====
section
/-! SUPPORT. What every instruction does, by its executor: the one case split over all constructors, on
which a proof about all instructions rests. -/

namespace Sys2Proof.Machine

/-- What an instruction of the NEU does beside its own effect: its operand, if any, fits; it records the
exception pointers, moves only the stack and its operand, and concludes; memory changes only by a store
of its operand. -/
structure NeuStep (i : Instr) (s t : State) : Prop where
  fits : ∀ m, i.memOp? = some m → s.Fits m (operandBytes i)
  runs : ∃ (ex : ExcSet) (code : BitVec 4) (u : State),
    Effect (s.begin ((i.memOp?.map s.ea).map BitVec.toNat)) u ∧ (t = u.conclude ex code ∨ t = u.endQuiet)
  kept : isStore i = false → t.mem = s.mem
  writable : ∀ m, i.memOp? = some m → t.mem = s.mem ∨ s.Writable m (operandBytes i)
  stored : ∀ m, i.memOp? = some m →
    t.mem = s.mem ∨ ∃ v, t.mem = s.mem.writeLE (s.ea m).toNat (operandBytes i) v

theorem NeuStep.of_operand {i : Instr} {s t : State} {m : MemOp} {n : Nat} {f : Nat → State}
    (h : s.withOperand m n f = .next t) (hm : i.memOp? = some m) (hn : operandBytes i = n)
    (hrun : ∀ a, RunsQuietly (s.begin (some a)) (f a)) : NeuStep i s t := by
  obtain ⟨hf, rfl⟩ := State.withOperand_next _ _ _ _ _ h
  have hr := hrun (s.ea m).toNat
  refine ⟨fun m' h' => ?_, ?_, fun _ => hr.mem, fun _ _ => .inl hr.mem, fun _ _ => .inl hr.mem⟩
  · obtain rfl : m = m' := Option.some.inj (hm.symm.trans h')
    exact hn ▸ hf
  · obtain ⟨ex, code, u, he, -, ht⟩ := hr
    exact ⟨ex, code, u, by rw [hm]; exact he, .inl ht⟩

theorem NeuStep.of_store {i : Instr} {s t : State} {m : MemOp} {n : Nat} {x : Stored} {pop : Bool}
    (h : s.storeOperand m n x pop = .next t)
    (hm : i.memOp? = some m) (hn : operandBytes i = n) (hs : isStore i = true) : NeuStep i s t := by
  obtain ⟨hf, hw, rfl⟩ := State.withDestination_next _ _ _ _ _ _ h
  obtain ⟨⟨ex, code, u, he, ht⟩, hmem⟩ :=
    (s.begin (some (s.ea m).toNat)).storeBits_runs (s.ea m).toNat n x pop
  refine ⟨fun m' h' => ?_, ⟨ex, code, u, by rw [hm]; exact he, .inl ht⟩, fun hc => absurd hs (by simp [hc]),
    fun m' h' => ?_, fun m' h' => ?_⟩ <;> obtain rfl : m = m' := Option.some.inj (hm.symm.trans h')
  · exact hn ▸ hf
  · cases hx : x.suppressed s.cw.masks
    · exact .inr (hn ▸ hw (by rw [hx]; rfl))
    · exact .inl (State.storeBits_suppressed _ _ _ _ _ hx)
  · subst hn
    exact hmem.imp id fun h => ⟨x.bits, h⟩

theorem NeuStep.of_register {i : Instr} {s t u : State} (hm : i.memOp? = none)
    (hrun : RunsQuietly (s.begin none) u) (h : (.next u : Host.Outcome State Fault Refusal) = .next t) :
    NeuStep i s t := by
  obtain rfl := Host.Outcome.next.inj h
  refine ⟨fun m' h' => absurd (hm.symm.trans h') (by simp), ?_, fun _ => hrun.mem, fun _ _ => .inl hrun.mem,
    fun _ _ => .inl hrun.mem⟩
  obtain ⟨ex, code, u, he, -, ht⟩ := hrun
  exact ⟨ex, code, u, by rw [hm]; exact he, .inl ht⟩

theorem NeuStep.of_quiet {i : Instr} {s t u : State} (hm : i.memOp? = none) (he : Effect (s.begin none) u)
    (hu : u.mem = s.mem) (h : (.next u.endQuiet : Host.Outcome State Fault Refusal) = .next t) : NeuStep i s t := by
  obtain rfl := Host.Outcome.next.inj h
  exact ⟨fun m' h' => absurd (hm.symm.trans h') (by simp),
    ⟨.none, 0, u, by rw [hm]; exact he, .inr rfl⟩, fun _ => hu, fun _ _ => .inl hu, fun _ _ => .inl hu⟩

/-- Every instruction of the NEU. -/
theorem exec_neu (i : Instr) (s t : State) (hx : executorOf i = .neu) (h : exec i s = .next t) :
    NeuStep i s t := by
  cases i with
  | fldM32 m => change execFldM32 m s = _ at h; unfold execFldM32 at h; exact NeuStep.of_operand h rfl rfl (fun a => (s.begin (some a)).loadReal_runs ..)
  | fldM64 m => change execFldM64 m s = _ at h; unfold execFldM64 at h; exact NeuStep.of_operand h rfl rfl (fun a => (s.begin (some a)).loadReal_runs ..)
  | fldM80 m => change execFldM80 m s = _ at h; unfold execFldM80 at h; exact NeuStep.of_operand h rfl rfl (fun a => (s.begin (some a)).loadTReal_runs ..)
  | fldSti k => exact NeuStep.of_register rfl ((s.begin none).loadSt_runs ..) h
  | fstM32 m => change execFstM32 m s = _ at h; unfold execFstM32 at h; exact NeuStep.of_store h rfl rfl rfl
  | fstM64 m => change execFstM64 m s = _ at h; unfold execFstM64 at h; exact NeuStep.of_store h rfl rfl rfl
  | fstSti k => exact NeuStep.of_register rfl ((s.begin none).storeSt_runs ..) h
  | fstpM32 m => change execFstpM32 m s = _ at h; unfold execFstpM32 at h; exact NeuStep.of_store h rfl rfl rfl
  | fstpM64 m => change execFstpM64 m s = _ at h; unfold execFstpM64 at h; exact NeuStep.of_store h rfl rfl rfl
  | fstpM80 m => change execFstpM80 m s = _ at h; unfold execFstpM80 at h; exact NeuStep.of_store h rfl rfl rfl
  | fstpSti k => exact NeuStep.of_register rfl ((s.begin none).storeSt_runs ..) h
  | fxch k => exact NeuStep.of_register rfl ((s.begin none).exchange_runs ..) h
  | fildM16 m => change execFildM16 m s = _ at h; unfold execFildM16 at h; exact NeuStep.of_operand h rfl rfl (fun a => (s.begin (some a)).loadInt_runs ..)
  | fildM32 m => change execFildM32 m s = _ at h; unfold execFildM32 at h; exact NeuStep.of_operand h rfl rfl (fun a => (s.begin (some a)).loadInt_runs ..)
  | fildM64 m => change execFildM64 m s = _ at h; unfold execFildM64 at h; exact NeuStep.of_operand h rfl rfl (fun a => (s.begin (some a)).loadInt_runs ..)
  | fistM16 m => change execFistM16 m s = _ at h; unfold execFistM16 at h; exact NeuStep.of_store h rfl rfl rfl
  | fistM32 m => change execFistM32 m s = _ at h; unfold execFistM32 at h; exact NeuStep.of_store h rfl rfl rfl
  | fistpM16 m => change execFistpM16 m s = _ at h; unfold execFistpM16 at h; exact NeuStep.of_store h rfl rfl rfl
  | fistpM32 m => change execFistpM32 m s = _ at h; unfold execFistpM32 at h; exact NeuStep.of_store h rfl rfl rfl
  | fistpM64 m => change execFistpM64 m s = _ at h; unfold execFistpM64 at h; exact NeuStep.of_store h rfl rfl rfl
  | fbld m => change execFbld m s = _ at h; unfold execFbld at h; exact NeuStep.of_operand h rfl rfl (fun a => (s.begin (some a)).loadBcd_runs ..)
  | fbstp m => change execFbstp m s = _ at h; unfold execFbstp at h; exact NeuStep.of_store h rfl rfl rfl
  | faddM32 m => change execFaddM32 m s = _ at h; unfold execFaddM32 at h; exact NeuStep.of_operand h rfl rfl (fun a => (s.begin (some a)).basic_runs ..)
  | faddM64 m => change execFaddM64 m s = _ at h; unfold execFaddM64 at h; exact NeuStep.of_operand h rfl rfl (fun a => (s.begin (some a)).basic_runs ..)
  | faddSt k => exact NeuStep.of_register rfl ((s.begin none).basic_runs ..) h
  | faddSti k => exact NeuStep.of_register rfl ((s.begin none).basic_runs ..) h
  | faddp k => exact NeuStep.of_register rfl ((s.begin none).basic_runs ..) h
  | fiaddM16 m => change execFiaddM16 m s = _ at h; unfold execFiaddM16 at h; exact NeuStep.of_operand h rfl rfl (fun a => (s.begin (some a)).basic_runs ..)
  | fiaddM32 m => change execFiaddM32 m s = _ at h; unfold execFiaddM32 at h; exact NeuStep.of_operand h rfl rfl (fun a => (s.begin (some a)).basic_runs ..)
  | fsubM32 m => change execFsubM32 m s = _ at h; unfold execFsubM32 at h; exact NeuStep.of_operand h rfl rfl (fun a => (s.begin (some a)).basic_runs ..)
  | fsubM64 m => change execFsubM64 m s = _ at h; unfold execFsubM64 at h; exact NeuStep.of_operand h rfl rfl (fun a => (s.begin (some a)).basic_runs ..)
  | fsubSt k => exact NeuStep.of_register rfl ((s.begin none).basic_runs ..) h
  | fsubSti k => exact NeuStep.of_register rfl ((s.begin none).basic_runs ..) h
  | fsubp k => exact NeuStep.of_register rfl ((s.begin none).basic_runs ..) h
  | fisubM16 m => change execFisubM16 m s = _ at h; unfold execFisubM16 at h; exact NeuStep.of_operand h rfl rfl (fun a => (s.begin (some a)).basic_runs ..)
  | fisubM32 m => change execFisubM32 m s = _ at h; unfold execFisubM32 at h; exact NeuStep.of_operand h rfl rfl (fun a => (s.begin (some a)).basic_runs ..)
  | fsubrM32 m => change execFsubrM32 m s = _ at h; unfold execFsubrM32 at h; exact NeuStep.of_operand h rfl rfl (fun a => (s.begin (some a)).basic_runs ..)
  | fsubrM64 m => change execFsubrM64 m s = _ at h; unfold execFsubrM64 at h; exact NeuStep.of_operand h rfl rfl (fun a => (s.begin (some a)).basic_runs ..)
  | fsubrSt k => exact NeuStep.of_register rfl ((s.begin none).basic_runs ..) h
  | fsubrSti k => exact NeuStep.of_register rfl ((s.begin none).basic_runs ..) h
  | fsubrp k => exact NeuStep.of_register rfl ((s.begin none).basic_runs ..) h
  | fisubrM16 m => change execFisubrM16 m s = _ at h; unfold execFisubrM16 at h; exact NeuStep.of_operand h rfl rfl (fun a => (s.begin (some a)).basic_runs ..)
  | fisubrM32 m => change execFisubrM32 m s = _ at h; unfold execFisubrM32 at h; exact NeuStep.of_operand h rfl rfl (fun a => (s.begin (some a)).basic_runs ..)
  | fmulM32 m => change execFmulM32 m s = _ at h; unfold execFmulM32 at h; exact NeuStep.of_operand h rfl rfl (fun a => (s.begin (some a)).basic_runs ..)
  | fmulM64 m => change execFmulM64 m s = _ at h; unfold execFmulM64 at h; exact NeuStep.of_operand h rfl rfl (fun a => (s.begin (some a)).basic_runs ..)
  | fmulSt k => exact NeuStep.of_register rfl ((s.begin none).basic_runs ..) h
  | fmulSti k => exact NeuStep.of_register rfl ((s.begin none).basic_runs ..) h
  | fmulp k => exact NeuStep.of_register rfl ((s.begin none).basic_runs ..) h
  | fimulM16 m => change execFimulM16 m s = _ at h; unfold execFimulM16 at h; exact NeuStep.of_operand h rfl rfl (fun a => (s.begin (some a)).basic_runs ..)
  | fimulM32 m => change execFimulM32 m s = _ at h; unfold execFimulM32 at h; exact NeuStep.of_operand h rfl rfl (fun a => (s.begin (some a)).basic_runs ..)
  | fdivM32 m => change execFdivM32 m s = _ at h; unfold execFdivM32 at h; exact NeuStep.of_operand h rfl rfl (fun a => (s.begin (some a)).basic_runs ..)
  | fdivM64 m => change execFdivM64 m s = _ at h; unfold execFdivM64 at h; exact NeuStep.of_operand h rfl rfl (fun a => (s.begin (some a)).basic_runs ..)
  | fdivSt k => exact NeuStep.of_register rfl ((s.begin none).basic_runs ..) h
  | fdivSti k => exact NeuStep.of_register rfl ((s.begin none).basic_runs ..) h
  | fdivp k => exact NeuStep.of_register rfl ((s.begin none).basic_runs ..) h
  | fidivM16 m => change execFidivM16 m s = _ at h; unfold execFidivM16 at h; exact NeuStep.of_operand h rfl rfl (fun a => (s.begin (some a)).basic_runs ..)
  | fidivM32 m => change execFidivM32 m s = _ at h; unfold execFidivM32 at h; exact NeuStep.of_operand h rfl rfl (fun a => (s.begin (some a)).basic_runs ..)
  | fdivrM32 m => change execFdivrM32 m s = _ at h; unfold execFdivrM32 at h; exact NeuStep.of_operand h rfl rfl (fun a => (s.begin (some a)).basic_runs ..)
  | fdivrM64 m => change execFdivrM64 m s = _ at h; unfold execFdivrM64 at h; exact NeuStep.of_operand h rfl rfl (fun a => (s.begin (some a)).basic_runs ..)
  | fdivrSt k => exact NeuStep.of_register rfl ((s.begin none).basic_runs ..) h
  | fdivrSti k => exact NeuStep.of_register rfl ((s.begin none).basic_runs ..) h
  | fdivrp k => exact NeuStep.of_register rfl ((s.begin none).basic_runs ..) h
  | fidivrM16 m => change execFidivrM16 m s = _ at h; unfold execFidivrM16 at h; exact NeuStep.of_operand h rfl rfl (fun a => (s.begin (some a)).basic_runs ..)
  | fidivrM32 m => change execFidivrM32 m s = _ at h; unfold execFidivrM32 at h; exact NeuStep.of_operand h rfl rfl (fun a => (s.begin (some a)).basic_runs ..)
  | fsqrt => exact NeuStep.of_register rfl ((s.begin none).unary_runs ..) h
  | fscale => exact NeuStep.of_register rfl ((s.begin none).unary_runs ..) h
  | fprem => exact NeuStep.of_register rfl ((s.begin none).premainder_runs ..) h
  | frndint => exact NeuStep.of_register rfl ((s.begin none).unary_runs ..) h
  | fxtract => exact NeuStep.of_register rfl ((s.begin none).extract_runs ..) h
  | fabs => exact NeuStep.of_register rfl ((s.begin none).setSign_runs ..) h
  | fchs => exact NeuStep.of_register rfl ((s.begin none).setSign_runs ..) h
  | fcomM32 m => change execFcomM32 m s = _ at h; unfold execFcomM32 at h; exact NeuStep.of_operand h rfl rfl (fun a => (s.begin (some a)).compare_runs ..)
  | fcomM64 m => change execFcomM64 m s = _ at h; unfold execFcomM64 at h; exact NeuStep.of_operand h rfl rfl (fun a => (s.begin (some a)).compare_runs ..)
  | fcomSti k => exact NeuStep.of_register rfl ((s.begin none).compare_runs ..) h
  | fcompM32 m => change execFcompM32 m s = _ at h; unfold execFcompM32 at h; exact NeuStep.of_operand h rfl rfl (fun a => (s.begin (some a)).compare_runs ..)
  | fcompM64 m => change execFcompM64 m s = _ at h; unfold execFcompM64 at h; exact NeuStep.of_operand h rfl rfl (fun a => (s.begin (some a)).compare_runs ..)
  | fcompSti k => exact NeuStep.of_register rfl ((s.begin none).compare_runs ..) h
  | fcompp => exact NeuStep.of_register rfl ((s.begin none).compare_runs ..) h
  | ficomM16 m => change execFicomM16 m s = _ at h; unfold execFicomM16 at h; exact NeuStep.of_operand h rfl rfl (fun a => (s.begin (some a)).compare_runs ..)
  | ficomM32 m => change execFicomM32 m s = _ at h; unfold execFicomM32 at h; exact NeuStep.of_operand h rfl rfl (fun a => (s.begin (some a)).compare_runs ..)
  | ficompM16 m => change execFicompM16 m s = _ at h; unfold execFicompM16 at h; exact NeuStep.of_operand h rfl rfl (fun a => (s.begin (some a)).compare_runs ..)
  | ficompM32 m => change execFicompM32 m s = _ at h; unfold execFicompM32 at h; exact NeuStep.of_operand h rfl rfl (fun a => (s.begin (some a)).compare_runs ..)
  | ftst => exact NeuStep.of_register rfl ((s.begin none).compare_runs ..) h
  | fxam => exact NeuStep.of_register rfl ⟨_, _, _, Effect.refl _, rfl, rfl⟩ h
  | fptan => exact NeuStep.of_register rfl ((s.begin none).tangent_runs ..) h
  | fpatan => exact NeuStep.of_register rfl ((s.begin none).function2_runs ..) h
  | f2xm1 => exact NeuStep.of_register rfl ((s.begin none).function1_runs ..) h
  | fyl2x => exact NeuStep.of_register rfl ((s.begin none).function2_runs ..) h
  | fyl2xp1 => exact NeuStep.of_register rfl ((s.begin none).function2_runs ..) h
  | fldz => exact NeuStep.of_register rfl ((s.begin none).loadValue_runs ..) h
  | fld1 => exact NeuStep.of_register rfl ((s.begin none).loadValue_runs ..) h
  | fldpi => exact NeuStep.of_register rfl ((s.begin none).loadValue_runs ..) h
  | fldl2t => exact NeuStep.of_register rfl ((s.begin none).loadValue_runs ..) h
  | fldl2e => exact NeuStep.of_register rfl ((s.begin none).loadValue_runs ..) h
  | fldlg2 => exact NeuStep.of_register rfl ((s.begin none).loadValue_runs ..) h
  | fldln2 => exact NeuStep.of_register rfl ((s.begin none).loadValue_runs ..) h
  | finit => exact nomatch hx
  | fdisi => exact nomatch hx
  | feni => exact nomatch hx
  | fldcw m => exact nomatch hx
  | fstcw m => exact nomatch hx
  | fstsw m => exact nomatch hx
  | fclex => exact nomatch hx
  | fstenv m => exact nomatch hx
  | fldenv m => exact nomatch hx
  | fsave m => exact nomatch hx
  | frstor m => exact nomatch hx
  | fincstp => exact NeuStep.of_quiet rfl (Effect.setTop ..) rfl h
  | fdecstp => exact NeuStep.of_quiet rfl (Effect.setTop ..) rfl h
  | ffree k => exact NeuStep.of_quiet rfl (Effect.setTag ..) rfl h
  | fnop => exact NeuStep.of_quiet rfl (Effect.refl _) rfl h
  | fwait => exact nomatch hx
  | reservedM a b m => exact nomatch hx
  | reservedR a b k => exact nomatch hx

end Sys2Proof.Machine
end

