-- ==== Sys2Proof/Laws/Control.lean ====
section
/-! SUPPORT. What the processor control instructions with a memory operand do, both ways: the state they
give where the operand fits, and that it fits where they give one; and the same of the operand of every
instruction. -/

namespace Sys2Proof.Machine

/-- The state FLDCW leaves (46_processor_control.md R423). -/
def State.afterFldcw (s : State) (m : MemOp) : State :=
  ((s.begin (some (s.ea m).toNat)).loadControl (s.ea m).toNat).react

/-- The state FSTCW leaves (R424). -/
def State.afterFstcw (s : State) (m : MemOp) : State :=
  (s.begin (some (s.ea m).toNat)).store (s.ea m).toNat 2 s.cw.toBits.toNat

/-- The state FSTSW leaves (R427). -/
def State.afterFstsw (s : State) (m : MemOp) : State :=
  { s.begin (some (s.ea m).toNat) with
    mem := s.mem.writeLE (s.ea m).toNat 2 s.statusWord.toNat
    draws := s.draws + 1 }

/-- The state FSTENV leaves (R430). -/
def State.afterFstenv (s : State) (m : MemOp) : State :=
  State.react { (s.begin (some (s.ea m).toNat)).storeEnv (s.ea m).toNat with cw := { s.cw with masks := .all } }

/-- The state FLDENV leaves (R432). -/
def State.afterFldenv (s : State) (m : MemOp) : State := (s.loadEnv (s.ea m).toNat).react

/-- The state FSAVE leaves (R433). -/
def State.afterFsave (s : State) (m : MemOp) : State :=
  (((s.begin (some (s.ea m).toNat)).storeEnv (s.ea m).toNat).storeStack ((s.ea m).toNat + 14) 8).initialize

/-- The state FRSTOR leaves (R434). -/
def State.afterFrstor (s : State) (m : MemOp) : State :=
  ((s.loadEnv (s.ea m).toNat).loadStack ((s.ea m).toNat + 14) 8).react

theorem exec_fldcw (s : State) (m : MemOp) (h : s.Fits m 2) : exec (.fldcw m) s = .next (s.afterFldcw m) := by
  change execFldcw m s = _
  exact s.withOperand_fits m 2 _ h
theorem exec_fldcw_next (s t : State) (m : MemOp) (h : exec (.fldcw m) s = .next t) :
    s.Fits m 2 ∧ t = s.afterFldcw m := by
  change execFldcw m s = _ at h
  unfold execFldcw at h
  exact State.withOperand_next _ _ _ _ _ h

theorem exec_fstcw (s : State) (m : MemOp) (h : s.Fits m 2) (hw : s.Writable m 2) :
    exec (.fstcw m) s = .next (s.afterFstcw m) := by
  change execFstcw m s = _
  exact s.withDestination_fits m 2 true _ h fun _ => hw
theorem exec_fstcw_next (s t : State) (m : MemOp) (h : exec (.fstcw m) s = .next t) :
    s.Fits m 2 ∧ s.Writable m 2 ∧ t = s.afterFstcw m := by
  change execFstcw m s = _ at h
  unfold execFstcw at h
  obtain ⟨h1, h2, h3⟩ := State.withDestination_next _ _ _ _ _ _ h
  exact ⟨h1, h2 rfl, h3⟩

theorem exec_fstsw (s : State) (m : MemOp) (h : s.Fits m 2) (hw : s.Writable m 2) :
    exec (.fstsw m) s = .next (s.afterFstsw m) := by
  change execFstsw m s = _
  exact s.withDestination_fits m 2 true _ h fun _ => hw
theorem exec_fstsw_next (s t : State) (m : MemOp) (h : exec (.fstsw m) s = .next t) :
    s.Fits m 2 ∧ s.Writable m 2 ∧ t = s.afterFstsw m := by
  change execFstsw m s = _ at h
  unfold execFstsw at h
  obtain ⟨h1, h2, h3⟩ := State.withDestination_next _ _ _ _ _ _ h
  exact ⟨h1, h2 rfl, h3⟩

theorem exec_fstenv (s : State) (m : MemOp) (h : s.Fits m 14) (hw : s.Writable m 14) :
    exec (.fstenv m) s = .next (s.afterFstenv m) := by
  change execFstenv m s = _
  exact s.withDestination_fits m 14 true _ h fun _ => hw
theorem exec_fstenv_next (s t : State) (m : MemOp) (h : exec (.fstenv m) s = .next t) :
    s.Fits m 14 ∧ s.Writable m 14 ∧ t = s.afterFstenv m := by
  change execFstenv m s = _ at h
  unfold execFstenv at h
  obtain ⟨h1, h2, h3⟩ := State.withDestination_next _ _ _ _ _ _ h
  exact ⟨h1, h2 rfl, h3⟩

theorem exec_fldenv (s : State) (m : MemOp) (h : s.Fits m 14) : exec (.fldenv m) s = .next (s.afterFldenv m) := by
  change execFldenv m s = _
  exact s.withOperand_fits m 14 _ h
theorem exec_fldenv_next (s t : State) (m : MemOp) (h : exec (.fldenv m) s = .next t) :
    s.Fits m 14 ∧ t = s.afterFldenv m := by
  change execFldenv m s = _ at h
  unfold execFldenv at h
  exact State.withOperand_next _ _ _ _ _ h

theorem exec_fsave (s : State) (m : MemOp) (h : s.Fits m 94) (hw : s.Writable m 94) :
    exec (.fsave m) s = .next (s.afterFsave m) := by
  change execFsave m s = _
  exact s.withDestination_fits m 94 true _ h fun _ => hw
theorem exec_fsave_next (s t : State) (m : MemOp) (h : exec (.fsave m) s = .next t) :
    s.Fits m 94 ∧ s.Writable m 94 ∧ t = s.afterFsave m := by
  change execFsave m s = _ at h
  unfold execFsave at h
  obtain ⟨h1, h2, h3⟩ := State.withDestination_next _ _ _ _ _ _ h
  exact ⟨h1, h2 rfl, h3⟩

theorem exec_frstor (s : State) (m : MemOp) (h : s.Fits m 94) : exec (.frstor m) s = .next (s.afterFrstor m) := by
  change execFrstor m s = _
  exact s.withOperand_fits m 94 _ h
theorem exec_frstor_next (s t : State) (m : MemOp) (h : exec (.frstor m) s = .next t) :
    s.Fits m 94 ∧ t = s.afterFrstor m := by
  change execFrstor m s = _ at h
  unfold execFrstor at h
  exact State.withOperand_next _ _ _ _ _ h

/-- Where an instruction gives a next state, its memory operand fits. -/
theorem exec_fits (i : Instr) (s t : State) (m : MemOp) (h : exec i s = .next t) (hm : i.memOp? = some m) :
    s.Fits m (operandBytes i) := by
  by_cases hx : executorOf i = .neu
  · exact (exec_neu i s t hx h).fits m hm
  · cases i with
    | fldcw k => obtain rfl := Option.some.inj hm; exact (exec_fldcw_next s t k h).1
    | fstcw k => obtain rfl := Option.some.inj hm; exact (exec_fstcw_next s t k h).1
    | fstsw k => obtain rfl := Option.some.inj hm; exact (exec_fstsw_next s t k h).1
    | fstenv k => obtain rfl := Option.some.inj hm; exact (exec_fstenv_next s t k h).1
    | fldenv k => obtain rfl := Option.some.inj hm; exact (exec_fldenv_next s t k h).1
    | fsave k => obtain rfl := Option.some.inj hm; exact (exec_fsave_next s t k h).1
    | frstor k => obtain rfl := Option.some.inj hm; exact (exec_frstor_next s t k h).1
    | finit | fdisi | feni | fclex | fwait => exact absurd hm (by simp [Instr.memOp?])
    | reservedR a b k => exact absurd hm (by simp [Instr.memOp?])
    | reservedM a b k =>
      exact ⟨Nat.le_of_lt (s.ea m).isLt, fun x h1 h2 => absurd (h1.trans_lt h2) (Nat.lt_irrefl _)⟩
    | _ => exact absurd rfl hx

end Sys2Proof.Machine
end

