-- ==== Sys2Proof/Laws/Agents.lean ====
section
/-! SUPPORT. What the agents' operations can do, said once: which events a WAIT belongs to, which instruction
a reserved opcode stands for and with which opcode, and what FNINIT and RESET leave of the stores that they cut short. -/

namespace Sys2Proof.Machine

theorem decodeRegForm_ne_fwait (a b c : BitVec 3) : decodeRegForm a b c ≠ .fwait := by
  revert a b c; decide +kernel

theorem decodeMemForm_ne_fwait (a b : BitVec 3) (m : MemOp) : decodeMemForm a b m ≠ .fwait := by
  unfold decodeMemForm; split <;> simp

/-- Only the byte 9BH decodes to FWAIT. -/
theorem decode_fwait {b : Byte} {bs left : List Byte} {i : Instr} (h : decode (b :: bs) = .ok (i, left)) :
    i = .fwait ↔ b = 0x9B := by
  simp only [decode] at h
  split at h
  · next hb => exact ⟨fun _ => hb, fun _ => (congrArg Prod.fst (Except.ok.inj h)).symm⟩
  · next hb =>
    refine ⟨fun hi => ?_, fun hc => absurd hc hb⟩
    subst hi
    split at h
    · split at h
      · exact nomatch h
      · simp only [decodeEsc] at h
        split at h
        · exact (decodeRegForm_ne_fwait _ _ _ (congrArg Prod.fst (Except.ok.inj h))).elim
        · split at h
          · exact (decodeMemForm_ne_fwait _ _ _ (congrArg Prod.fst (Except.ok.inj h))).elim
          · exact nomatch h
    · exact nomatch h

/-- An event fences exactly when the CPU executes a WAIT with it. -/
theorem Event.fences_iff (e : Event) (seg : Option SegReg) (i : Instr) (left : List Byte)
    (h : decodeFull e.bytes = .ok (seg, i, left)) : e.fences = true ↔ e.wait = true ∨ i = .fwait := by
  unfold Event.fences
  simp only [Bool.or_eq_true, decide_eq_true_eq]
  refine or_congr_right ?_
  cases hb : e.bytes with
  | nil => rw [hb] at h; exact nomatch h
  | cons b rest =>
    rw [hb] at h
    simp only [decodeFull] at h
    simp only [List.head?_cons, Option.some.injEq]
    split at h
    · split at h
      · next hd =>
        obtain ⟨-, rfl, -⟩ := Except.ok.inj h |> Prod.mk.inj |>.imp id Prod.mk.inj
        exact (decode_fwait hd).symm
      · exact nomatch h
    · next hg =>
      split at h
      · split at h
        · exact nomatch h
        · next hi =>
          obtain ⟨-, rfl, -⟩ := Except.ok.inj h |> Prod.mk.inj |>.imp id Prod.mk.inj
          refine iff_of_false (fun hc => ?_) hi
          subst hc
          exact nomatch hg
      · exact nomatch h
/-- Every opcode that is assigned to an instruction is that instruction. -/
theorem Settings.resolve_assigned (c : Settings) (i : Instr) (h : isReserved i = false) : c.resolve i = some i := by
  simp [Settings.resolve, h]


/-! ### Opcodes -/

/-- The `mod` field of a memory operand. -/
def memMod : MemOp → BitVec 2
  | .noDisp _ | .direct _ => 0
  | .disp8 _ _ => 1
  | .disp16 _ _ => 2
/-- The `rm` field of a memory operand. -/
def memRm : MemOp → BitVec 3
  | .noDisp b | .disp8 b _ | .disp16 b _ => b.code
  | .direct _ => 6

theorem memMod_ne (m : MemOp) : memMod m ≠ 3 := by cases m <;> simp [memMod]

theorem opcode_low (a : BitVec 3) : ((0b11011 : BitVec 5) ++ a).extractLsb' 0 3 = a := by revert a; decide

/-- The opcode of the memory format. -/
theorem opcode11_encM (a b : BitVec 3) (m : MemOp) : opcode11 (encM a b m) = a ++ (memMod m ++ b ++ memRm m) := by
  cases m <;> (simp only [encM, encodeMemOp, opcode11, opcode_low]; rfl)

/-- The opcode of the register format. -/
theorem opcode11_encR (a b i : BitVec 3) : opcode11 (encR a b i) = a ++ ((3 : BitVec 2) ++ b ++ i) := by
  simp only [encR, opcode11, opcode_low]

/-- The fields of an opcode. -/
theorem opcode_fields (a : BitVec 3) (md : BitVec 2) (b r : BitVec 3) :
    (a ++ (md ++ b ++ r)).extractLsb' 8 3 = a ∧ (a ++ (md ++ b ++ r)).extractLsb' 6 2 = md ∧
      (a ++ (md ++ b ++ r)).extractLsb' 3 3 = b ∧ (a ++ (md ++ b ++ r)).extractLsb' 0 3 = r := by
  revert a md b r; decide +kernel

theorem opcode_assoc (k : BitVec 11) (md : BitVec 2) (r : BitVec 3) :
    k.extractLsb' 8 3 ++ md ++ k.extractLsb' 3 3 ++ r = k.extractLsb' 8 3 ++ (md ++ k.extractLsb' 3 3 ++ r) := by
  generalize k.extractLsb' 8 3 = a
  generalize k.extractLsb' 3 3 = b
  revert a b md r; decide +kernel

theorem encode_decodeMemForm (a b : BitVec 3) (m : MemOp) : encode (decodeMemForm a b m) = encM a b m := by
  have h : ∀ x y : Fin 8, encode (decodeMemForm (BitVec.ofNat 3 x) (BitVec.ofNat 3 y) m) =
      encM (BitVec.ofNat 3 x) (BitVec.ofNat 3 y) m := by
    intro x y; fin_cases x <;> fin_cases y <;> rfl
  simpa using h a.toFin b.toFin

theorem encode_decodeRegForm (a b i : BitVec 3) : encode (decodeRegForm a b i) = encR a b i := by
  revert a b i; decide +kernel

/-- What `standsFor` tests: the opcode is assigned to no instruction. -/
def opcodeReserved (op : BitVec 11) : Bool :=
  isReserved (aliasOf op (if decide (op.extractLsb' 6 2 ≠ 3) then some (.direct 0) else none))

theorem opcodeReserved_encM (a b : BitVec 3) (m : MemOp) :
    opcodeReserved (opcode11 (encM a b m)) = isReserved (decodeMemForm a b (.direct 0)) := by
  obtain ⟨h1, h2, h3, -⟩ := opcode_fields a (memMod m) b (memRm m)
  unfold opcodeReserved
  rw [opcode11_encM, h2]
  simp only [memMod_ne m, ne_eq, not_false_eq_true, decide_true, if_true, aliasOf, h1, h3]

theorem opcodeReserved_encR (a b i : BitVec 3) :
    opcodeReserved (opcode11 (encR a b i)) = isReserved (decodeRegForm a b i) := by
  obtain ⟨h1, h2, h3, h4⟩ := opcode_fields a 3 b i
  unfold opcodeReserved
  rw [opcode11_encR, h2]
  simp only [ne_eq, not_true_eq_false, decide_false, aliasOf, h1, h3, h4, Bool.false_eq_true, if_false]

/-- The opcode of a well-formed instruction is reserved exactly where the instruction is. -/
theorem opcodeReserved_encode (i : Instr) (hw : i.wf = true) :
    opcodeReserved (opcode11 (encode i)) = isReserved i := by
  have hM : ∀ a b, reservedMem a b = true → isReserved (decodeMemForm a b (.direct 0)) = true := by decide
  have hR : ∀ a b i, reservedReg a b i = true → isReserved (decodeRegForm a b i) = true := by decide +kernel
  cases i with
  | reservedM a b m =>
    rw [encode, opcodeReserved_encM]
    exact hM a b (by simp only [Instr.wf, Bool.and_eq_true] at hw; exact hw.2)
  | reservedR a b k =>
    rw [encode, opcodeReserved_encR]
    exact hR a b k (by simpa [Instr.wf, Instr.memOp?] using hw)
  | fwait => decide
  | _ =>
    first
      | (rw [encode, opcodeReserved_encM]; rfl)
      | (rw [encode, opcodeReserved_encR]; decide +revert)

/-- The opcode that counts for `ptr_update_set` is that of the instruction which runs. -/
theorem Settings.standsFor_encode (c : Settings) (i k : Instr) (hw : i.wf = true) (h : c.resolve i = some k) :
    c.standsFor (opcode11 (encode i)) = opcode11 (encode k) := by
  have ht := opcodeReserved_encode i hw
  unfold opcodeReserved at ht
  unfold Settings.resolve at h
  unfold Settings.standsFor
  cases hr : isReserved i <;> rw [hr] at h ht
  · obtain rfl := Option.some.inj h
    cases c.reserved <;> dsimp only
    rw [ht, if_neg (by simp)]
  · rw [if_pos rfl] at h
    cases hc : c.reserved with
    | refuse => rw [hc] at h; exact nomatch h
    | nop => rw [hc] at h; obtain rfl := Option.some.inj h; rfl
    | aliased pairs =>
      rw [hc] at h
      dsimp only at h ⊢
      rw [ht, if_pos rfl]
      cases hx : pairs.find? fun k => k.1 = opcode11 (encode i) with
      | none =>
        rw [hx] at h
        obtain rfl := Option.some.inj h
        rfl
      | some x =>
        rw [hx] at h
        obtain rfl := Option.some.inj h
        dsimp only
        cases i with
        | reservedM a b m =>
          obtain ⟨-, h2, -, h4⟩ := opcode_fields a (memMod m) b (memRm m)
          have he : encode (aliasOf x.2 (Instr.reservedM a b m).memOp?) =
            encM (x.2.extractLsb' 8 3) (x.2.extractLsb' 3 3) m := encode_decodeMemForm ..
          rw [he, encode, opcode11_encM, opcode11_encM, h2]
          simp only [memMod_ne m, ne_eq, not_false_eq_true, decide_true, if_true, h4]
          exact opcode_assoc ..
        | reservedR a b k =>
          obtain ⟨-, h2, -, -⟩ := opcode_fields a 3 b k
          have he : encode (aliasOf x.2 (Instr.reservedR a b k).memOp?) =
            encR (x.2.extractLsb' 8 3) (x.2.extractLsb' 3 3) (x.2.extractLsb' 0 3) := encode_decodeRegForm ..
          rw [he, encode, opcode11_encR, opcode11_encR, h2]
          simp only [ne_eq, not_true_eq_false, decide_false, Bool.false_eq_true, if_false]
          exact opcode_assoc ..
        | _ => exact nomatch hr

/-! ### Running and aborting -/

/-- The addresses of the operand of a job that runs are addresses of memory. -/
theorem Job.addresses_lt {j : Job} {s t : State} (h : s.runJob j = .next t) : ∀ x ∈ j.addresses, x < 2 ^ 20 := by
  intro x hx
  unfold Job.addresses Job.operand at hx
  unfold State.runJob at h
  split at h
  · next u hu =>
    cases hm : j.instr.memOp? with
    | none => rw [hm] at hx; exact absurd hx (by simp)
    | some m =>
      rw [hm] at hx
      have hf := (exec_fits _ _ _ _ hu hm).1
      have hx : x < (j.port.ea m).toNat + operandBytes j.instr := ((mem_addresses ..).mp hx).2
      simp only [State.ea] at hf
      omega
  · exact nomatch h
  · exact nomatch h

/-- A byte in transit has one of the addresses stored to, what memory held there and what it holds after. -/
theorem mem_transit (old new : Memory) (xs : List Nat) (c : Transit) (hx : ∀ x ∈ xs, x < 2 ^ 20)
    (h : c ∈ transit old new xs) :
    c.addr.toNat ∈ xs ∧ c.old = old.read c.addr.toNat ∧ c.new = new.read c.addr.toNat := by
  obtain ⟨x, hm, rfl⟩ := List.mem_map.mp h
  have hn : (BitVec.ofNat 20 x).toNat = x := Nat.mod_eq_of_lt (hx x hm)
  exact ⟨hn.symm ▸ hm, by dsimp only; rw [hn], by dsimp only; rw [hn]⟩

/-- What a job stores: memory after its run, if it is a store. -/
theorem State.stored_eq {s t : State} {j : Job} (h : s.runJob j = .next t) :
    s.stored j = if isStore j.instr then t.mem else s.mem := by
  unfold State.stored
  rw [h]
  split
  · next hs ht => rw [hs, ← Host.Outcome.next.inj ht]; rfl
  · next hn =>
    cases hs : isStore j.instr
    · rfl
    · exact (hn t hs rfl).elim

/-- The store of the running instruction, as if complete, keeps what `P` says of memory wherever a run of the
instruction does. -/
theorem State.storedByNeu_of (s : State) (P : Memory → Prop) (h : P s.mem)
    (hrun : ∀ j t, s.neu = some j → isStore j.instr = true → State.runJob { s with neu := none } j = .next t →
      P t.mem) : P s.storedByNeu.1 := by
  unfold State.storedByNeu
  split
  · exact h
  · next j hj =>
    split
    · next t hs ht => exact hrun j t hj hs ht
    · exact h

/-- An abort changes nothing but the NEU, memory, the bytes in transit and the counter. -/
theorem State.abort_eq (s : State) :
    s.abort = { s with neu := none, mem := s.abort.mem, storing := s.abort.storing, draws := s.abort.draws } := by
  unfold State.abort
  split <;> rfl

/-- Where nothing runs and nothing is in transit there is nothing to abort. -/
theorem State.abort_idle (s : State) (hn : s.neu = none) (hs : s.storing = []) : s.abort = s := by
  unfold State.abort State.storedByNeu
  rw [hn, hs]
  dsimp only
  rw [← hn, ← hs]

/-- Every byte after an abort is as if all stores had completed, or one from before them. -/
theorem State.abort_read (s : State) (x : Nat) (h : s.storedByNeu.1.wf = true) :
    s.abort.mem.wf = true ∧
      (s.abort.mem.read x = s.storedByNeu.1.read x ∨
        ∃ c ∈ s.storedByNeu.2, c.addr.toNat = x ∧ s.abort.mem.read x = c.old) := by
  unfold State.abort
  split
  · next m heq =>
    rw [heq] at h ⊢
    exact ⟨h, .inl rfl⟩
  · next m cells hne heq =>
    rw [heq] at h ⊢
    refine ⟨Memory.wf_writeSome _ _ _ h, (Memory.read_writeSome _ _ _ _ h).imp_right fun ⟨d, hd, hx, hr⟩ => ?_⟩
    obtain ⟨c, hc, rfl⟩ := List.mem_map.mp hd
    exact ⟨c, hc, hx, hr⟩

/-- After an abort nothing can be undone: a byte in transit has, as its byte from before, what memory holds. -/
theorem State.abort_storing (s : State) : ∀ c ∈ s.abort.storing, c.old = s.abort.mem.read c.addr.toNat := by
  unfold State.abort
  split
  · next m heq =>
    have hs : s.storing = [] := by
      unfold State.storedByNeu at heq
      split at heq
      · exact congrArg Prod.snd heq
      · split at heq
        · next hst _ =>
          have h := congrArg Prod.snd heq
          simp only [State.inTransit, hst, if_true] at h
          exact (List.append_eq_nil_iff.mp h).2
        · exact congrArg Prod.snd heq
    simp [hs]
  · next m cells hne heq =>
    intro c hc
    obtain ⟨d, -, rfl⟩ := List.mem_map.mp hc
    rfl

/-- A CPU write keeps the canonical form, changes no other byte, and leaves its byte or one of the bytes that
the CU is storing there. -/
theorem State.cpuWrite_read (s : State) (a : Nat) (b : Byte) (ha : a < 2 ^ 20) (h : s.mem.wf = true) :
    (s.cpuWrite a b).mem.wf = true ∧ (∀ x, x ≠ a → (s.cpuWrite a b).mem.read x = s.mem.read x) ∧
      ((s.cpuWrite a b).mem.read a = b ∨
        ∃ c ∈ s.storing, c.addr.toNat = a ∧ (s.cpuWrite a b).mem.read a = c.new) := by
  have hw := Memory.wf_write s.mem a b ha h
  unfold State.cpuWrite
  dsimp only
  split
  · exact ⟨hw, fun x hx => by rw [Memory.read_write _ _ _ _ h, if_neg hx],
      .inl (by rw [Memory.read_write _ _ _ _ h, if_pos rfl])⟩
  · next cells hne =>
    have hc : ∀ d ∈ (s.storing.filter fun c => c.addr.toNat = a).map (fun c => (c.addr, c.new)),
        ∃ c ∈ s.storing, c.addr.toNat = a ∧ d = (c.addr, c.new) := by
      intro d hd
      obtain ⟨c, hm, rfl⟩ := List.mem_map.mp hd
      obtain ⟨hm, he⟩ := List.mem_filter.mp hm
      exact ⟨c, hm, by simpa using he, rfl⟩
    refine ⟨Memory.wf_writeSome _ _ _ hw, fun x hx => ?_, ?_⟩
    · rcases Memory.read_writeSome _ s.draws _ x hw with e | ⟨d, hd, he, -⟩
      · rw [e, Memory.read_write _ _ _ _ h, if_neg hx]
      · obtain ⟨c, -, hca, rfl⟩ := hc d hd
        exact (hx (he.symm.trans hca)).elim
    · rcases Memory.read_writeSome _ s.draws _ a hw with e | ⟨d, hd, -, hr⟩
      · exact .inl (by rw [e, Memory.read_write _ _ _ _ h, if_pos rfl])
      · obtain ⟨c, hm, hca, rfl⟩ := hc d hd
        exact .inr ⟨c, hm, hca, hr⟩

end Sys2Proof.Machine
end

