-- ==== Sys2Proof/Laws/PerInstr.lean ====
section
/-! SUPPORT. A fact about every instruction as syntax: its bytes have the format of spec/30_encoding.md
R120, R122 and the length of R127. One lemma per constructor. -/

namespace Sys2Proof

/-- The displacement bytes that follow an addressing byte (R127). -/
def Laws.displacement (b1 : Byte) : Nat :=
  if b1.extractLsb' 6 2 = 3 then 0
  else if b1.extractLsb' 6 2 = 0 then (if b1.extractLsb' 0 3 = 6 then 2 else 0)
  else if b1.extractLsb' 6 2 = 1 then 1 else 2

/-- A well-formed escape instruction is an escape byte, an addressing byte, and the displacement bytes
that the addressing byte announces. -/
def Laws.EncodedShape.Statement (i : Instr) : Prop :=
  i.wf = true → i ≠ .fwait →
    ∃ b0 b1 : Byte, ∃ ds : List Byte,
      encode i = b0 :: b1 :: ds ∧ b0.extractLsb' 3 5 = 0b11011 ∧ ds.length = Laws.displacement b1

theorem Laws.escape_byte (a : BitVec 3) : ((0b11011 : BitVec 5) ++ a).extractLsb' 3 5 = 0b11011 := by
  revert a; decide

theorem Laws.displacement_reg (b i : BitVec 3) :
    Laws.displacement ((3 : BitVec 2) ++ b ++ i) = 0 := by
  revert b i; decide

theorem Laws.displacement_none (b : BitVec 3) (r : Base) (h : r ≠ .bp) :
    Laws.displacement ((0 : BitVec 2) ++ b ++ r.code) = 0 := by
  revert b; cases r <;> first | decide | exact absurd rfl h

theorem Laws.displacement_direct (b : BitVec 3) :
    Laws.displacement ((0 : BitVec 2) ++ b ++ (6 : BitVec 3)) = 2 := by
  revert b; decide

theorem Laws.displacement_byte (b rm : BitVec 3) :
    Laws.displacement ((1 : BitVec 2) ++ b ++ rm) = 1 := by
  revert b rm; decide

theorem Laws.displacement_word (b rm : BitVec 3) :
    Laws.displacement ((2 : BitVec 2) ++ b ++ rm) = 2 := by
  revert b rm; decide

theorem Laws.displacement_mem (b : BitVec 3) (m : MemOp) (h : m.wf = true) :
    ∃ b1 : Byte, ∃ ds : List Byte, encodeMemOp b m = b1 :: ds ∧ ds.length = Laws.displacement b1 := by
  cases m with
  | noDisp r => exact ⟨_, _, rfl, (Laws.displacement_none b r (of_decide_eq_true h)).symm⟩
  | direct off => exact ⟨_, _, rfl, (Laws.displacement_direct b).symm⟩
  | disp8 r d => exact ⟨_, _, rfl, (Laws.displacement_byte b r.code).symm⟩
  | disp16 r d => exact ⟨_, _, rfl, (Laws.displacement_word b r.code).symm⟩

/-- The memory operand of a well-formed instruction is well-formed. -/
theorem Laws.wf_memOp (i : Instr) (m : MemOp) (hm : i.memOp? = some m) (h : i.wf = true) : m.wf = true := by
  unfold Instr.wf at h
  rw [hm] at h
  exact (Bool.and_eq_true _ _ ▸ h).1

theorem Laws.encR_shape (a b i : BitVec 3) :
    ∃ b0 b1 : Byte, ∃ ds : List Byte,
      encR a b i = b0 :: b1 :: ds ∧ b0.extractLsb' 3 5 = 0b11011 ∧ ds.length = Laws.displacement b1 :=
  ⟨_, _, _, rfl, Laws.escape_byte a, (Laws.displacement_reg b i).symm⟩

theorem Laws.encM_shape (a b : BitVec 3) (m : MemOp) (h : m.wf = true) :
    ∃ b0 b1 : Byte, ∃ ds : List Byte,
      encM a b m = b0 :: b1 :: ds ∧ b0.extractLsb' 3 5 = 0b11011 ∧ ds.length = Laws.displacement b1 :=
  have ⟨_, _, hb, hl⟩ := Laws.displacement_mem b m h
  ⟨_, _, _, congrArg _ hb, Laws.escape_byte a, hl⟩

theorem Laws.EncodedShape.fldM32 (m : MemOp) : Laws.EncodedShape.Statement (.fldM32 m) := fun h _ =>
  Laws.encM_shape 1 0 m (Laws.wf_memOp _ m rfl h)
theorem Laws.EncodedShape.fldM64 (m : MemOp) : Laws.EncodedShape.Statement (.fldM64 m) := fun h _ =>
  Laws.encM_shape 5 0 m (Laws.wf_memOp _ m rfl h)
theorem Laws.EncodedShape.fldM80 (m : MemOp) : Laws.EncodedShape.Statement (.fldM80 m) := fun h _ =>
  Laws.encM_shape 3 5 m (Laws.wf_memOp _ m rfl h)
theorem Laws.EncodedShape.fldSti (i : BitVec 3) : Laws.EncodedShape.Statement (.fldSti i) :=
  fun _ _ => Laws.encR_shape 1 0 i
theorem Laws.EncodedShape.fstM32 (m : MemOp) : Laws.EncodedShape.Statement (.fstM32 m) := fun h _ =>
  Laws.encM_shape 1 2 m (Laws.wf_memOp _ m rfl h)
theorem Laws.EncodedShape.fstM64 (m : MemOp) : Laws.EncodedShape.Statement (.fstM64 m) := fun h _ =>
  Laws.encM_shape 5 2 m (Laws.wf_memOp _ m rfl h)
theorem Laws.EncodedShape.fstSti (i : BitVec 3) : Laws.EncodedShape.Statement (.fstSti i) :=
  fun _ _ => Laws.encR_shape 5 2 i
theorem Laws.EncodedShape.fstpM32 (m : MemOp) : Laws.EncodedShape.Statement (.fstpM32 m) := fun h _ =>
  Laws.encM_shape 1 3 m (Laws.wf_memOp _ m rfl h)
theorem Laws.EncodedShape.fstpM64 (m : MemOp) : Laws.EncodedShape.Statement (.fstpM64 m) := fun h _ =>
  Laws.encM_shape 5 3 m (Laws.wf_memOp _ m rfl h)
theorem Laws.EncodedShape.fstpM80 (m : MemOp) : Laws.EncodedShape.Statement (.fstpM80 m) := fun h _ =>
  Laws.encM_shape 3 7 m (Laws.wf_memOp _ m rfl h)
theorem Laws.EncodedShape.fstpSti (i : BitVec 3) : Laws.EncodedShape.Statement (.fstpSti i) :=
  fun _ _ => Laws.encR_shape 5 3 i
theorem Laws.EncodedShape.fxch (i : BitVec 3) : Laws.EncodedShape.Statement (.fxch i) :=
  fun _ _ => Laws.encR_shape 1 1 i
theorem Laws.EncodedShape.fildM16 (m : MemOp) : Laws.EncodedShape.Statement (.fildM16 m) := fun h _ =>
  Laws.encM_shape 7 0 m (Laws.wf_memOp _ m rfl h)
theorem Laws.EncodedShape.fildM32 (m : MemOp) : Laws.EncodedShape.Statement (.fildM32 m) := fun h _ =>
  Laws.encM_shape 3 0 m (Laws.wf_memOp _ m rfl h)
theorem Laws.EncodedShape.fildM64 (m : MemOp) : Laws.EncodedShape.Statement (.fildM64 m) := fun h _ =>
  Laws.encM_shape 7 5 m (Laws.wf_memOp _ m rfl h)
theorem Laws.EncodedShape.fistM16 (m : MemOp) : Laws.EncodedShape.Statement (.fistM16 m) := fun h _ =>
  Laws.encM_shape 7 2 m (Laws.wf_memOp _ m rfl h)
theorem Laws.EncodedShape.fistM32 (m : MemOp) : Laws.EncodedShape.Statement (.fistM32 m) := fun h _ =>
  Laws.encM_shape 3 2 m (Laws.wf_memOp _ m rfl h)
theorem Laws.EncodedShape.fistpM16 (m : MemOp) : Laws.EncodedShape.Statement (.fistpM16 m) := fun h _ =>
  Laws.encM_shape 7 3 m (Laws.wf_memOp _ m rfl h)
theorem Laws.EncodedShape.fistpM32 (m : MemOp) : Laws.EncodedShape.Statement (.fistpM32 m) := fun h _ =>
  Laws.encM_shape 3 3 m (Laws.wf_memOp _ m rfl h)
theorem Laws.EncodedShape.fistpM64 (m : MemOp) : Laws.EncodedShape.Statement (.fistpM64 m) := fun h _ =>
  Laws.encM_shape 7 7 m (Laws.wf_memOp _ m rfl h)
theorem Laws.EncodedShape.fbld (m : MemOp) : Laws.EncodedShape.Statement (.fbld m) := fun h _ =>
  Laws.encM_shape 7 4 m (Laws.wf_memOp _ m rfl h)
theorem Laws.EncodedShape.fbstp (m : MemOp) : Laws.EncodedShape.Statement (.fbstp m) := fun h _ =>
  Laws.encM_shape 7 6 m (Laws.wf_memOp _ m rfl h)
theorem Laws.EncodedShape.faddM32 (m : MemOp) : Laws.EncodedShape.Statement (.faddM32 m) := fun h _ =>
  Laws.encM_shape 0 0 m (Laws.wf_memOp _ m rfl h)
theorem Laws.EncodedShape.faddM64 (m : MemOp) : Laws.EncodedShape.Statement (.faddM64 m) := fun h _ =>
  Laws.encM_shape 4 0 m (Laws.wf_memOp _ m rfl h)
theorem Laws.EncodedShape.faddSt (i : BitVec 3) : Laws.EncodedShape.Statement (.faddSt i) :=
  fun _ _ => Laws.encR_shape 0 0 i
theorem Laws.EncodedShape.faddSti (i : BitVec 3) : Laws.EncodedShape.Statement (.faddSti i) :=
  fun _ _ => Laws.encR_shape 4 0 i
theorem Laws.EncodedShape.faddp (i : BitVec 3) : Laws.EncodedShape.Statement (.faddp i) :=
  fun _ _ => Laws.encR_shape 6 0 i
theorem Laws.EncodedShape.fiaddM16 (m : MemOp) : Laws.EncodedShape.Statement (.fiaddM16 m) := fun h _ =>
  Laws.encM_shape 6 0 m (Laws.wf_memOp _ m rfl h)
theorem Laws.EncodedShape.fiaddM32 (m : MemOp) : Laws.EncodedShape.Statement (.fiaddM32 m) := fun h _ =>
  Laws.encM_shape 2 0 m (Laws.wf_memOp _ m rfl h)
theorem Laws.EncodedShape.fsubM32 (m : MemOp) : Laws.EncodedShape.Statement (.fsubM32 m) := fun h _ =>
  Laws.encM_shape 0 4 m (Laws.wf_memOp _ m rfl h)
theorem Laws.EncodedShape.fsubM64 (m : MemOp) : Laws.EncodedShape.Statement (.fsubM64 m) := fun h _ =>
  Laws.encM_shape 4 4 m (Laws.wf_memOp _ m rfl h)
theorem Laws.EncodedShape.fsubSt (i : BitVec 3) : Laws.EncodedShape.Statement (.fsubSt i) :=
  fun _ _ => Laws.encR_shape 0 4 i
theorem Laws.EncodedShape.fsubSti (i : BitVec 3) : Laws.EncodedShape.Statement (.fsubSti i) :=
  fun _ _ => Laws.encR_shape 4 5 i
theorem Laws.EncodedShape.fsubp (i : BitVec 3) : Laws.EncodedShape.Statement (.fsubp i) :=
  fun _ _ => Laws.encR_shape 6 5 i
theorem Laws.EncodedShape.fisubM16 (m : MemOp) : Laws.EncodedShape.Statement (.fisubM16 m) := fun h _ =>
  Laws.encM_shape 6 4 m (Laws.wf_memOp _ m rfl h)
theorem Laws.EncodedShape.fisubM32 (m : MemOp) : Laws.EncodedShape.Statement (.fisubM32 m) := fun h _ =>
  Laws.encM_shape 2 4 m (Laws.wf_memOp _ m rfl h)
theorem Laws.EncodedShape.fsubrM32 (m : MemOp) : Laws.EncodedShape.Statement (.fsubrM32 m) := fun h _ =>
  Laws.encM_shape 0 5 m (Laws.wf_memOp _ m rfl h)
theorem Laws.EncodedShape.fsubrM64 (m : MemOp) : Laws.EncodedShape.Statement (.fsubrM64 m) := fun h _ =>
  Laws.encM_shape 4 5 m (Laws.wf_memOp _ m rfl h)
theorem Laws.EncodedShape.fsubrSt (i : BitVec 3) : Laws.EncodedShape.Statement (.fsubrSt i) :=
  fun _ _ => Laws.encR_shape 0 5 i
theorem Laws.EncodedShape.fsubrSti (i : BitVec 3) : Laws.EncodedShape.Statement (.fsubrSti i) :=
  fun _ _ => Laws.encR_shape 4 4 i
theorem Laws.EncodedShape.fsubrp (i : BitVec 3) : Laws.EncodedShape.Statement (.fsubrp i) :=
  fun _ _ => Laws.encR_shape 6 4 i
theorem Laws.EncodedShape.fisubrM16 (m : MemOp) : Laws.EncodedShape.Statement (.fisubrM16 m) := fun h _ =>
  Laws.encM_shape 6 5 m (Laws.wf_memOp _ m rfl h)
theorem Laws.EncodedShape.fisubrM32 (m : MemOp) : Laws.EncodedShape.Statement (.fisubrM32 m) := fun h _ =>
  Laws.encM_shape 2 5 m (Laws.wf_memOp _ m rfl h)
theorem Laws.EncodedShape.fmulM32 (m : MemOp) : Laws.EncodedShape.Statement (.fmulM32 m) := fun h _ =>
  Laws.encM_shape 0 1 m (Laws.wf_memOp _ m rfl h)
theorem Laws.EncodedShape.fmulM64 (m : MemOp) : Laws.EncodedShape.Statement (.fmulM64 m) := fun h _ =>
  Laws.encM_shape 4 1 m (Laws.wf_memOp _ m rfl h)
theorem Laws.EncodedShape.fmulSt (i : BitVec 3) : Laws.EncodedShape.Statement (.fmulSt i) :=
  fun _ _ => Laws.encR_shape 0 1 i
theorem Laws.EncodedShape.fmulSti (i : BitVec 3) : Laws.EncodedShape.Statement (.fmulSti i) :=
  fun _ _ => Laws.encR_shape 4 1 i
theorem Laws.EncodedShape.fmulp (i : BitVec 3) : Laws.EncodedShape.Statement (.fmulp i) :=
  fun _ _ => Laws.encR_shape 6 1 i
theorem Laws.EncodedShape.fimulM16 (m : MemOp) : Laws.EncodedShape.Statement (.fimulM16 m) := fun h _ =>
  Laws.encM_shape 6 1 m (Laws.wf_memOp _ m rfl h)
theorem Laws.EncodedShape.fimulM32 (m : MemOp) : Laws.EncodedShape.Statement (.fimulM32 m) := fun h _ =>
  Laws.encM_shape 2 1 m (Laws.wf_memOp _ m rfl h)
theorem Laws.EncodedShape.fdivM32 (m : MemOp) : Laws.EncodedShape.Statement (.fdivM32 m) := fun h _ =>
  Laws.encM_shape 0 6 m (Laws.wf_memOp _ m rfl h)
theorem Laws.EncodedShape.fdivM64 (m : MemOp) : Laws.EncodedShape.Statement (.fdivM64 m) := fun h _ =>
  Laws.encM_shape 4 6 m (Laws.wf_memOp _ m rfl h)
theorem Laws.EncodedShape.fdivSt (i : BitVec 3) : Laws.EncodedShape.Statement (.fdivSt i) :=
  fun _ _ => Laws.encR_shape 0 6 i
theorem Laws.EncodedShape.fdivSti (i : BitVec 3) : Laws.EncodedShape.Statement (.fdivSti i) :=
  fun _ _ => Laws.encR_shape 4 7 i
theorem Laws.EncodedShape.fdivp (i : BitVec 3) : Laws.EncodedShape.Statement (.fdivp i) :=
  fun _ _ => Laws.encR_shape 6 7 i
theorem Laws.EncodedShape.fidivM16 (m : MemOp) : Laws.EncodedShape.Statement (.fidivM16 m) := fun h _ =>
  Laws.encM_shape 6 6 m (Laws.wf_memOp _ m rfl h)
theorem Laws.EncodedShape.fidivM32 (m : MemOp) : Laws.EncodedShape.Statement (.fidivM32 m) := fun h _ =>
  Laws.encM_shape 2 6 m (Laws.wf_memOp _ m rfl h)
theorem Laws.EncodedShape.fdivrM32 (m : MemOp) : Laws.EncodedShape.Statement (.fdivrM32 m) := fun h _ =>
  Laws.encM_shape 0 7 m (Laws.wf_memOp _ m rfl h)
theorem Laws.EncodedShape.fdivrM64 (m : MemOp) : Laws.EncodedShape.Statement (.fdivrM64 m) := fun h _ =>
  Laws.encM_shape 4 7 m (Laws.wf_memOp _ m rfl h)
theorem Laws.EncodedShape.fdivrSt (i : BitVec 3) : Laws.EncodedShape.Statement (.fdivrSt i) :=
  fun _ _ => Laws.encR_shape 0 7 i
theorem Laws.EncodedShape.fdivrSti (i : BitVec 3) : Laws.EncodedShape.Statement (.fdivrSti i) :=
  fun _ _ => Laws.encR_shape 4 6 i
theorem Laws.EncodedShape.fdivrp (i : BitVec 3) : Laws.EncodedShape.Statement (.fdivrp i) :=
  fun _ _ => Laws.encR_shape 6 6 i
theorem Laws.EncodedShape.fidivrM16 (m : MemOp) : Laws.EncodedShape.Statement (.fidivrM16 m) := fun h _ =>
  Laws.encM_shape 6 7 m (Laws.wf_memOp _ m rfl h)
theorem Laws.EncodedShape.fidivrM32 (m : MemOp) : Laws.EncodedShape.Statement (.fidivrM32 m) := fun h _ =>
  Laws.encM_shape 2 7 m (Laws.wf_memOp _ m rfl h)
theorem Laws.EncodedShape.fsqrt : Laws.EncodedShape.Statement .fsqrt := fun _ _ => Laws.encR_shape 1 7 2
theorem Laws.EncodedShape.fscale : Laws.EncodedShape.Statement .fscale := fun _ _ => Laws.encR_shape 1 7 5
theorem Laws.EncodedShape.fprem : Laws.EncodedShape.Statement .fprem := fun _ _ => Laws.encR_shape 1 7 0
theorem Laws.EncodedShape.frndint : Laws.EncodedShape.Statement .frndint := fun _ _ => Laws.encR_shape 1 7 4
theorem Laws.EncodedShape.fxtract : Laws.EncodedShape.Statement .fxtract := fun _ _ => Laws.encR_shape 1 6 4
theorem Laws.EncodedShape.fabs : Laws.EncodedShape.Statement .fabs := fun _ _ => Laws.encR_shape 1 4 1
theorem Laws.EncodedShape.fchs : Laws.EncodedShape.Statement .fchs := fun _ _ => Laws.encR_shape 1 4 0
theorem Laws.EncodedShape.fcomM32 (m : MemOp) : Laws.EncodedShape.Statement (.fcomM32 m) := fun h _ =>
  Laws.encM_shape 0 2 m (Laws.wf_memOp _ m rfl h)
theorem Laws.EncodedShape.fcomM64 (m : MemOp) : Laws.EncodedShape.Statement (.fcomM64 m) := fun h _ =>
  Laws.encM_shape 4 2 m (Laws.wf_memOp _ m rfl h)
theorem Laws.EncodedShape.fcomSti (i : BitVec 3) : Laws.EncodedShape.Statement (.fcomSti i) :=
  fun _ _ => Laws.encR_shape 0 2 i
theorem Laws.EncodedShape.fcompM32 (m : MemOp) : Laws.EncodedShape.Statement (.fcompM32 m) := fun h _ =>
  Laws.encM_shape 0 3 m (Laws.wf_memOp _ m rfl h)
theorem Laws.EncodedShape.fcompM64 (m : MemOp) : Laws.EncodedShape.Statement (.fcompM64 m) := fun h _ =>
  Laws.encM_shape 4 3 m (Laws.wf_memOp _ m rfl h)
theorem Laws.EncodedShape.fcompSti (i : BitVec 3) : Laws.EncodedShape.Statement (.fcompSti i) :=
  fun _ _ => Laws.encR_shape 0 3 i
theorem Laws.EncodedShape.fcompp : Laws.EncodedShape.Statement .fcompp := fun _ _ => Laws.encR_shape 6 3 1
theorem Laws.EncodedShape.ficomM16 (m : MemOp) : Laws.EncodedShape.Statement (.ficomM16 m) := fun h _ =>
  Laws.encM_shape 6 2 m (Laws.wf_memOp _ m rfl h)
theorem Laws.EncodedShape.ficomM32 (m : MemOp) : Laws.EncodedShape.Statement (.ficomM32 m) := fun h _ =>
  Laws.encM_shape 2 2 m (Laws.wf_memOp _ m rfl h)
theorem Laws.EncodedShape.ficompM16 (m : MemOp) : Laws.EncodedShape.Statement (.ficompM16 m) := fun h _ =>
  Laws.encM_shape 6 3 m (Laws.wf_memOp _ m rfl h)
theorem Laws.EncodedShape.ficompM32 (m : MemOp) : Laws.EncodedShape.Statement (.ficompM32 m) := fun h _ =>
  Laws.encM_shape 2 3 m (Laws.wf_memOp _ m rfl h)
theorem Laws.EncodedShape.ftst : Laws.EncodedShape.Statement .ftst := fun _ _ => Laws.encR_shape 1 4 4
theorem Laws.EncodedShape.fxam : Laws.EncodedShape.Statement .fxam := fun _ _ => Laws.encR_shape 1 4 5
theorem Laws.EncodedShape.fptan : Laws.EncodedShape.Statement .fptan := fun _ _ => Laws.encR_shape 1 6 2
theorem Laws.EncodedShape.fpatan : Laws.EncodedShape.Statement .fpatan := fun _ _ => Laws.encR_shape 1 6 3
theorem Laws.EncodedShape.f2xm1 : Laws.EncodedShape.Statement .f2xm1 := fun _ _ => Laws.encR_shape 1 6 0
theorem Laws.EncodedShape.fyl2x : Laws.EncodedShape.Statement .fyl2x := fun _ _ => Laws.encR_shape 1 6 1
theorem Laws.EncodedShape.fyl2xp1 : Laws.EncodedShape.Statement .fyl2xp1 := fun _ _ => Laws.encR_shape 1 7 1
theorem Laws.EncodedShape.fldz : Laws.EncodedShape.Statement .fldz := fun _ _ => Laws.encR_shape 1 5 6
theorem Laws.EncodedShape.fld1 : Laws.EncodedShape.Statement .fld1 := fun _ _ => Laws.encR_shape 1 5 0
theorem Laws.EncodedShape.fldpi : Laws.EncodedShape.Statement .fldpi := fun _ _ => Laws.encR_shape 1 5 3
theorem Laws.EncodedShape.fldl2t : Laws.EncodedShape.Statement .fldl2t := fun _ _ => Laws.encR_shape 1 5 1
theorem Laws.EncodedShape.fldl2e : Laws.EncodedShape.Statement .fldl2e := fun _ _ => Laws.encR_shape 1 5 2
theorem Laws.EncodedShape.fldlg2 : Laws.EncodedShape.Statement .fldlg2 := fun _ _ => Laws.encR_shape 1 5 4
theorem Laws.EncodedShape.fldln2 : Laws.EncodedShape.Statement .fldln2 := fun _ _ => Laws.encR_shape 1 5 5
theorem Laws.EncodedShape.finit : Laws.EncodedShape.Statement .finit := fun _ _ => Laws.encR_shape 3 4 3
theorem Laws.EncodedShape.fdisi : Laws.EncodedShape.Statement .fdisi := fun _ _ => Laws.encR_shape 3 4 1
theorem Laws.EncodedShape.feni : Laws.EncodedShape.Statement .feni := fun _ _ => Laws.encR_shape 3 4 0
theorem Laws.EncodedShape.fldcw (m : MemOp) : Laws.EncodedShape.Statement (.fldcw m) := fun h _ =>
  Laws.encM_shape 1 5 m (Laws.wf_memOp _ m rfl h)
theorem Laws.EncodedShape.fstcw (m : MemOp) : Laws.EncodedShape.Statement (.fstcw m) := fun h _ =>
  Laws.encM_shape 1 7 m (Laws.wf_memOp _ m rfl h)
theorem Laws.EncodedShape.fstsw (m : MemOp) : Laws.EncodedShape.Statement (.fstsw m) := fun h _ =>
  Laws.encM_shape 5 7 m (Laws.wf_memOp _ m rfl h)
theorem Laws.EncodedShape.fclex : Laws.EncodedShape.Statement .fclex := fun _ _ => Laws.encR_shape 3 4 2
theorem Laws.EncodedShape.fstenv (m : MemOp) : Laws.EncodedShape.Statement (.fstenv m) := fun h _ =>
  Laws.encM_shape 1 6 m (Laws.wf_memOp _ m rfl h)
theorem Laws.EncodedShape.fldenv (m : MemOp) : Laws.EncodedShape.Statement (.fldenv m) := fun h _ =>
  Laws.encM_shape 1 4 m (Laws.wf_memOp _ m rfl h)
theorem Laws.EncodedShape.fsave (m : MemOp) : Laws.EncodedShape.Statement (.fsave m) := fun h _ =>
  Laws.encM_shape 5 6 m (Laws.wf_memOp _ m rfl h)
theorem Laws.EncodedShape.frstor (m : MemOp) : Laws.EncodedShape.Statement (.frstor m) := fun h _ =>
  Laws.encM_shape 5 4 m (Laws.wf_memOp _ m rfl h)
theorem Laws.EncodedShape.fincstp : Laws.EncodedShape.Statement .fincstp := fun _ _ => Laws.encR_shape 1 6 7
theorem Laws.EncodedShape.fdecstp : Laws.EncodedShape.Statement .fdecstp := fun _ _ => Laws.encR_shape 1 6 6
theorem Laws.EncodedShape.ffree (i : BitVec 3) : Laws.EncodedShape.Statement (.ffree i) :=
  fun _ _ => Laws.encR_shape 5 0 i
theorem Laws.EncodedShape.fnop : Laws.EncodedShape.Statement .fnop := fun _ _ => Laws.encR_shape 1 2 0
theorem Laws.EncodedShape.fwait : Laws.EncodedShape.Statement .fwait := fun _ h => absurd rfl h
theorem Laws.EncodedShape.reservedM (opA opB : BitVec 3) (m : MemOp) :
    Laws.EncodedShape.Statement (.reservedM opA opB m) := fun h _ =>
  Laws.encM_shape opA opB m (Laws.wf_memOp _ m rfl h)
theorem Laws.EncodedShape.reservedR (opA opB i : BitVec 3) :
    Laws.EncodedShape.Statement (.reservedR opA opB i) := fun _ _ => Laws.encR_shape opA opB i

end Sys2Proof
end

