-- ==== Sys2Proof/Tests/Slice0.lean ====
section
/-! SUPPORT. Tests: ill-formed terms that the check refuses; a word written out from the spec's encoding
tables for every constructor; one step of instructions on small states, with the results that
spec/95_test_vectors.md gives, or that follow from them by hand; and, for every statement with hypotheses, a
state and operands that meet them. -/

namespace Sys2Proof.Tests

open Sys2Proof Sys2Proof.Machine

set_option Elab.async false

/-! ### Well-formedness -/

/-- BP without displacement has no encoding: its place is the direct mode (30_encoding.md R124). -/
theorem test_wf_refuses_bp_alone : (Instr.fldM32 (.noDisp .bp)).wf = false := by decide
/-- D9 /0 is FLD, so it is not a reserved cell (R130). -/
theorem test_wf_refuses_assigned_cell : (Instr.reservedM 1 0 (.direct 0)).wf = false := by decide
/-- D9 E8 is FLD1, so it is not a reserved opcode (R132). -/
theorem test_wf_refuses_assigned_register_form : (Instr.reservedR 1 5 0).wf = false := by decide
theorem test_wf_accepts : (Instr.fldM32 (.disp8 .bp 0)).wf = true ∧ (Instr.reservedM 1 1 (.direct 0)).wf = true ∧
    (Instr.reservedR 1 7 6).wf = true := by decide

/-! ### Decoding: a word for every constructor, the operand at offset 2000H or ST(3) -/

/-- Each of the byte strings decodes to its instruction, with nothing left. -/
def decodesTo (t : List (List Nat × Instr)) : Bool :=
  t.all fun x => decide (decode (x.1.map (BitVec.ofNat 8)) = .ok (x.2, []))

/-- The operand of the memory words: direct, 2000H. -/
def operand : MemOp := .direct 0x2000

/-- D8 with a memory operand (R130). -/
theorem test_decode_d8_memory : decodesTo [
    ([0xD8, 0x06, 0x00, 0x20], .faddM32 operand),
    ([0xD8, 0x0E, 0x00, 0x20], .fmulM32 operand),
    ([0xD8, 0x16, 0x00, 0x20], .fcomM32 operand),
    ([0xD8, 0x1E, 0x00, 0x20], .fcompM32 operand),
    ([0xD8, 0x26, 0x00, 0x20], .fsubM32 operand),
    ([0xD8, 0x2E, 0x00, 0x20], .fsubrM32 operand),
    ([0xD8, 0x36, 0x00, 0x20], .fdivM32 operand),
    ([0xD8, 0x3E, 0x00, 0x20], .fdivrM32 operand)] = true := by decide +kernel

/-- DC with a memory operand (R130). -/
theorem test_decode_dc_memory : decodesTo [
    ([0xDC, 0x06, 0x00, 0x20], .faddM64 operand),
    ([0xDC, 0x0E, 0x00, 0x20], .fmulM64 operand),
    ([0xDC, 0x16, 0x00, 0x20], .fcomM64 operand),
    ([0xDC, 0x1E, 0x00, 0x20], .fcompM64 operand),
    ([0xDC, 0x26, 0x00, 0x20], .fsubM64 operand),
    ([0xDC, 0x2E, 0x00, 0x20], .fsubrM64 operand),
    ([0xDC, 0x36, 0x00, 0x20], .fdivM64 operand),
    ([0xDC, 0x3E, 0x00, 0x20], .fdivrM64 operand)] = true := by decide +kernel

/-- DA with a memory operand (R130). -/
theorem test_decode_da_memory : decodesTo [
    ([0xDA, 0x06, 0x00, 0x20], .fiaddM32 operand),
    ([0xDA, 0x0E, 0x00, 0x20], .fimulM32 operand),
    ([0xDA, 0x16, 0x00, 0x20], .ficomM32 operand),
    ([0xDA, 0x1E, 0x00, 0x20], .ficompM32 operand),
    ([0xDA, 0x26, 0x00, 0x20], .fisubM32 operand),
    ([0xDA, 0x2E, 0x00, 0x20], .fisubrM32 operand),
    ([0xDA, 0x36, 0x00, 0x20], .fidivM32 operand),
    ([0xDA, 0x3E, 0x00, 0x20], .fidivrM32 operand)] = true := by decide +kernel

/-- DE with a memory operand (R130). -/
theorem test_decode_de_memory : decodesTo [
    ([0xDE, 0x06, 0x00, 0x20], .fiaddM16 operand),
    ([0xDE, 0x0E, 0x00, 0x20], .fimulM16 operand),
    ([0xDE, 0x16, 0x00, 0x20], .ficomM16 operand),
    ([0xDE, 0x1E, 0x00, 0x20], .ficompM16 operand),
    ([0xDE, 0x26, 0x00, 0x20], .fisubM16 operand),
    ([0xDE, 0x2E, 0x00, 0x20], .fisubrM16 operand),
    ([0xDE, 0x36, 0x00, 0x20], .fidivM16 operand),
    ([0xDE, 0x3E, 0x00, 0x20], .fidivrM16 operand)] = true := by decide +kernel

/-- D9 with a memory operand (R130). -/
theorem test_decode_d9_memory : decodesTo [
    ([0xD9, 0x06, 0x00, 0x20], .fldM32 operand),
    ([0xD9, 0x16, 0x00, 0x20], .fstM32 operand),
    ([0xD9, 0x1E, 0x00, 0x20], .fstpM32 operand),
    ([0xD9, 0x26, 0x00, 0x20], .fldenv operand),
    ([0xD9, 0x2E, 0x00, 0x20], .fldcw operand),
    ([0xD9, 0x36, 0x00, 0x20], .fstenv operand),
    ([0xD9, 0x3E, 0x00, 0x20], .fstcw operand)] = true := by decide +kernel

/-- DB with a memory operand (R130). -/
theorem test_decode_db_memory : decodesTo [
    ([0xDB, 0x06, 0x00, 0x20], .fildM32 operand),
    ([0xDB, 0x16, 0x00, 0x20], .fistM32 operand),
    ([0xDB, 0x1E, 0x00, 0x20], .fistpM32 operand),
    ([0xDB, 0x2E, 0x00, 0x20], .fldM80 operand),
    ([0xDB, 0x3E, 0x00, 0x20], .fstpM80 operand)] = true := by decide +kernel

/-- DD with a memory operand (R130). -/
theorem test_decode_dd_memory : decodesTo [
    ([0xDD, 0x06, 0x00, 0x20], .fldM64 operand),
    ([0xDD, 0x16, 0x00, 0x20], .fstM64 operand),
    ([0xDD, 0x1E, 0x00, 0x20], .fstpM64 operand),
    ([0xDD, 0x26, 0x00, 0x20], .frstor operand),
    ([0xDD, 0x36, 0x00, 0x20], .fsave operand),
    ([0xDD, 0x3E, 0x00, 0x20], .fstsw operand)] = true := by decide +kernel

/-- DF with a memory operand (R130). -/
theorem test_decode_df_memory : decodesTo [
    ([0xDF, 0x06, 0x00, 0x20], .fildM16 operand),
    ([0xDF, 0x16, 0x00, 0x20], .fistM16 operand),
    ([0xDF, 0x1E, 0x00, 0x20], .fistpM16 operand),
    ([0xDF, 0x26, 0x00, 0x20], .fbld operand),
    ([0xDF, 0x2E, 0x00, 0x20], .fildM64 operand),
    ([0xDF, 0x36, 0x00, 0x20], .fbstp operand),
    ([0xDF, 0x3E, 0x00, 0x20], .fistpM64 operand)] = true := by decide +kernel

/-- D8 without a memory operand (R131 to R133). -/
theorem test_decode_d8_register : decodesTo [
    ([0xD8, 0xC3], .faddSt 3),
    ([0xD8, 0xCB], .fmulSt 3),
    ([0xD8, 0xD3], .fcomSti 3),
    ([0xD8, 0xDB], .fcompSti 3),
    ([0xD8, 0xE3], .fsubSt 3),
    ([0xD8, 0xEB], .fsubrSt 3),
    ([0xD8, 0xF3], .fdivSt 3),
    ([0xD8, 0xFB], .fdivrSt 3)] = true := by decide +kernel

/-- DC without a memory operand (R131 to R133). -/
theorem test_decode_dc_register : decodesTo [
    ([0xDC, 0xC3], .faddSti 3),
    ([0xDC, 0xCB], .fmulSti 3),
    ([0xDC, 0xE3], .fsubrSti 3),
    ([0xDC, 0xEB], .fsubSti 3),
    ([0xDC, 0xF3], .fdivrSti 3),
    ([0xDC, 0xFB], .fdivSti 3)] = true := by decide +kernel

/-- DE without a memory operand (R131 to R133). -/
theorem test_decode_de_register : decodesTo [
    ([0xDE, 0xC3], .faddp 3),
    ([0xDE, 0xCB], .fmulp 3),
    ([0xDE, 0xD9], .fcompp),
    ([0xDE, 0xE3], .fsubrp 3),
    ([0xDE, 0xEB], .fsubp 3),
    ([0xDE, 0xF3], .fdivrp 3),
    ([0xDE, 0xFB], .fdivp 3)] = true := by decide +kernel

/-- D9 without a memory operand (R131 to R133). -/
theorem test_decode_d9_register : decodesTo [
    ([0xD9, 0xC3], .fldSti 3),
    ([0xD9, 0xCB], .fxch 3),
    ([0xD9, 0xD0], .fnop),
    ([0xD9, 0xE0], .fchs),
    ([0xD9, 0xE1], .fabs),
    ([0xD9, 0xE4], .ftst),
    ([0xD9, 0xE5], .fxam),
    ([0xD9, 0xE8], .fld1),
    ([0xD9, 0xE9], .fldl2t),
    ([0xD9, 0xEA], .fldl2e),
    ([0xD9, 0xEB], .fldpi),
    ([0xD9, 0xEC], .fldlg2),
    ([0xD9, 0xED], .fldln2),
    ([0xD9, 0xEE], .fldz),
    ([0xD9, 0xF0], .f2xm1),
    ([0xD9, 0xF1], .fyl2x),
    ([0xD9, 0xF2], .fptan),
    ([0xD9, 0xF3], .fpatan),
    ([0xD9, 0xF4], .fxtract),
    ([0xD9, 0xF6], .fdecstp),
    ([0xD9, 0xF7], .fincstp),
    ([0xD9, 0xF8], .fprem),
    ([0xD9, 0xF9], .fyl2xp1),
    ([0xD9, 0xFA], .fsqrt),
    ([0xD9, 0xFC], .frndint),
    ([0xD9, 0xFD], .fscale)] = true := by decide +kernel

/-- DB without a memory operand (R131 to R133). -/
theorem test_decode_db_register : decodesTo [
    ([0xDB, 0xE0], .feni),
    ([0xDB, 0xE1], .fdisi),
    ([0xDB, 0xE2], .fclex),
    ([0xDB, 0xE3], .finit)] = true := by decide +kernel

/-- DD without a memory operand (R131 to R133). -/
theorem test_decode_dd_register : decodesTo [
    ([0xDD, 0xC3], .ffree 3),
    ([0xDD, 0xD3], .fstSti 3),
    ([0xDD, 0xDB], .fstpSti 3)] = true := by decide +kernel

/-- The CPU's WAIT (R135). -/
theorem test_decode_wait : decodesTo [
    ([0x9B], .fwait)] = true := by decide +kernel

/-- Reserved encodings (R147, R148; 95_test_vectors.md section 2.8). -/
theorem test_decode_reserved : decodesTo [
    ([0xD9, 0x0E, 0x00, 0x20], .reservedM 1 1 operand),
    ([0xD9, 0xD1], .reservedR 1 2 1),
    ([0xDB, 0xE4], .reservedR 3 4 4),
    ([0xDF, 0xE0], .reservedR 7 4 0),
    ([0xD9, 0xE2], .reservedR 1 4 2)] = true := by decide +kernel

/-- The addressing modes (R124; 95_test_vectors.md S2, S10 and section 2.8). -/
theorem test_decode_addressing : decodesTo [
    ([0xDC, 0x0F], .fmulM64 (.noDisp .bx)),
    ([0xDA, 0x64, 0xFE], .fisubM32 (.disp8 .si 0xFE)),
    ([0xDE, 0x76, 0x08], .fidivM16 (.disp8 .bp 8)),
    ([0xD9, 0x84, 0x04, 0x00], .fldM32 (.disp16 .si 4)),
    ([0xD8, 0xA4, 0x10, 0x00], .fsubM32 (.disp16 .si 0x10)),
    ([0xDF, 0x46, 0x04], .fildM16 (.disp8 .bp 4)),
    ([0xDF, 0x21], .fbld (.noDisp .bxDi)),
    ([0xD8, 0x06, 0x34, 0x12], .faddM32 (.direct 0x1234))] = true := by decide +kernel

/-- Bytes that are no instruction of this machine, and an instruction cut short. -/
theorem test_decode_refuses : decode [0x90] = .error (.notNdp 0x90) ∧ decode [0xD9] = .error .truncated ∧
    decode [0xD9, 0x06, 0x00] = .error .truncated := by decide
/-- The segment-override bytes (R124), and one in front of a WAIT, which no instruction has. -/
theorem test_decode_prefix : ([(0x26, SegReg.es), (0x2E, .cs), (0x36, .ss), (0x3E, .ds)].all fun x =>
      decodeFull [x.1, 0xD9, 0x07] = .ok (some x.2, .fldM32 (.noDisp .bx), [])) = true ∧
    decodeFull [0x3E, 0x9B] = .error (.notNdp 0x9B) := by decide

/-! ### One step of an instruction

The operand in memory, where there is one, is at 2000H. A stack is listed from its top. -/

/-- A machine with this control word, these registers, and these bytes at 2000H. -/
def machine (cw : Nat) (stack : List Nat) (bytes : List Nat := []) : State :=
  let s : State := { State.reset with
    cw := Control.ofBits (BitVec.ofNat 16 cw)
    mem := State.reset.mem.writeLE 0x2000 bytes.length (bytes.foldr (fun b v => v * 256 + b) 0) }
  stack.foldr (fun v s => s.push (BitVec.ofNat 80 v)) s

/-- The event of a wait-form instruction at 0010FH. -/
def event (bytes : List Nat) : Event :=
  { wait := true, overlap := false, ia := 0x0010F, bytes := bytes.map (BitVec.ofNat 8), cpu := .zero }

/-- One step of an idle machine, which runs the instruction of these bytes. -/
def run (bytes : List Nat) (s : State) : Option State :=
  match step { s with inbox := [.insn (event bytes)] } with
  | .next t => some t
  | .fault _ => none
  | .refused _ => none

/-- The step gave a state of which `p` holds. -/
def shows (o : Option State) (p : State → Bool) : Bool :=
  match o with
  | some t => p t
  | none => false

/-- What the tests look at: the stack from its top, each register with the tag of its content, and the flags. -/
def leaves (t : State) (stack : List Nat) (flags : Nat) : Bool :=
  t.sw.ex.toBits.toNat = flags && t.sw.top.toNat = (8 - stack.length) % 8 &&
  (stack.zipIdx.all fun x =>
    let i := BitVec.ofNat 3 x.2
    (t.st i).toNat = x.1 && t.stTag i = tagOf (t.st i))

/-- The bytes at 2000H. -/
def stored (t : State) (bytes : List Nat) : Bool :=
  bytes.zipIdx.all fun x => (t.mem.read (0x2000 + x.2)).toNat = x.1

/-- FLD short and long real (section 2.1). -/
theorem test_fld_short_long :
    (shows (run [0xD9, 0x06, 0x00, 0x20] (machine 0x03FF [] [0xCD, 0xCC, 0xCC, 0x3D])) fun t => leaves t [0x3FFBCCCCCD0000000000] 0x00) ∧
    (shows (run [0xDD, 0x06, 0x00, 0x20] (machine 0x03FF [] [0x00, 0x00, 0x00, 0x00, 0x00, 0x80, 0x5F, 0xC0])) fun t => leaves t [0xC005FC00000000000000] 0x00) ∧
    (shows (run [0xD9, 0x06, 0x00, 0x20] (machine 0x03FF [] [0x00, 0x00, 0x80, 0x7F])) fun t => leaves t [0x7FFF8000000000000000] 0x00) := by decide +kernel

/-- FLD temporary real (section 2.1). -/
theorem test_fld_temporary :
    shows (run [0xDB, 0x2E, 0x00, 0x20] (machine 0x03FF [] [0x35, 0xC2, 0x68, 0x21, 0xA2, 0xDA, 0x0F, 0xC9, 0x00, 0x40])) fun t => leaves t [0x4000C90FDAA22168C235] 0x00 := by decide +kernel

/-- FLD ST(0) duplicates the top (S8). -/
theorem test_fld_register :
    shows (run [0xD9, 0xC0] (machine 0x03FF [0x4000A000000000000000])) fun t => leaves t [0x4000A000000000000000, 0x4000A000000000000000] 0x00 := by decide +kernel

/-- FILD of the three integer formats (section 2.1). -/
theorem test_fild :
    (shows (run [0xDF, 0x06, 0x00, 0x20] (machine 0x03FF [] [0x00, 0x80])) fun t => leaves t [0xC00E8000000000000000] 0x00) ∧
    (shows (run [0xDB, 0x06, 0x00, 0x20] (machine 0x03FF [] [0x40, 0x42, 0x0F, 0x00])) fun t => leaves t [0x4012F424000000000000] 0x00) ∧
    (shows (run [0xDF, 0x2E, 0x00, 0x20] (machine 0x03FF [] [0xFF, 0xFF, 0xFF, 0xFF, 0xFF, 0xFF, 0xFF, 0x7F])) fun t => leaves t [0x403DFFFFFFFFFFFFFFFE] 0x00) := by decide +kernel

/-- FBLD keeps the sign of zero (section 2.1). -/
theorem test_fbld :
    (shows (run [0xDF, 0x26, 0x00, 0x20] (machine 0x03FF [] [0x26, 0x01, 0x00, 0x00, 0x00, 0x00, 0x00, 0x00, 0x00, 0x80])) fun t => leaves t [0xC005FC00000000000000] 0x00) ∧
    (shows (run [0xDF, 0x26, 0x00, 0x20] (machine 0x03FF [] [0x00, 0x00, 0x00, 0x00, 0x00, 0x00, 0x00, 0x00, 0x00, 0x80])) fun t => leaves t [0x80000000000000000000] 0x00) := by decide +kernel

/-- FST short real rounds by RC; P (section 2.1). -/
theorem test_fst_short :
    (shows (run [0xD9, 0x16, 0x00, 0x20] (machine 0x03FF [0x3FFDAAAAAAAAAAAAAAAB])) fun t => stored t [0xAB, 0xAA, 0xAA, 0x3E] && leaves t [0x3FFDAAAAAAAAAAAAAAAB] 0x20) ∧
    (shows (run [0xD9, 0x16, 0x00, 0x20] (machine 0x07FF [0x3FFDAAAAAAAAAAAAAAAB])) fun t => stored t [0xAA, 0xAA, 0xAA, 0x3E] && leaves t [0x3FFDAAAAAAAAAAAAAAAB] 0x20) ∧
    (shows (run [0xD9, 0x16, 0x00, 0x20] (machine 0x03FF [0x7FFEFFFFFFFFFFFFFFFF])) fun t => stored t [0x00, 0x00, 0x80, 0x7F] && leaves t [0x7FFEFFFFFFFFFFFFFFFF] 0x28) := by decide +kernel

/-- FST of 87 x 2^-135 with masked underflow (S5). -/
theorem test_fst_short_denormal :
    shows (run [0xD9, 0x16, 0x00, 0x20] (machine 0x03FF [0x3F7EAE00000000000000])) fun t => stored t [0x00, 0xC0, 0x15, 0x00] && leaves t [0x3F7EAE00000000000000] 0x10 := by decide +kernel

/-- FST long real, RC up (section 2.1). -/
theorem test_fst_long :
    shows (run [0xDD, 0x16, 0x00, 0x20] (machine 0x0BFF [0x3FFDAAAAAAAAAAAAAAAB])) fun t => stored t [0x56, 0x55, 0x55, 0x55, 0x55, 0x55, 0xD5, 0x3F] && leaves t [0x3FFDAAAAAAAAAAAAAAAB] 0x20 := by decide +kernel

/-- FSTP in the three real formats pops (R263). -/
theorem test_fstp_memory :
    (shows (run [0xD9, 0x1E, 0x00, 0x20] (machine 0x03FF [0x4000A000000000000000])) fun t => stored t [0x00, 0x00, 0x20, 0x40] && leaves t [] 0x00) ∧
    (shows (run [0xDD, 0x1E, 0x00, 0x20] (machine 0x03FF [0xC005FC00000000000000])) fun t => stored t [0x00, 0x00, 0x00, 0x00, 0x00, 0x80, 0x5F, 0xC0] && leaves t [] 0x00) ∧
    (shows (run [0xDB, 0x3E, 0x00, 0x20] (machine 0x03FF [0x3FFDAAAAAAAAAAAAAAAB])) fun t => stored t [0xAB, 0xAA, 0xAA, 0xAA, 0xAA, 0xAA, 0xAA, 0xAA, 0xFD, 0x3F] && leaves t [] 0x00) := by decide +kernel

/-- FST ST(2) copies, FSTP ST(2) copies and pops (R262, R263). -/
theorem test_fst_register :
    (shows (run [0xDD, 0xD2] (machine 0x03FF [0x3FFF8000000000000000, 0x40008000000000000000, 0x4000C000000000000000])) fun t => leaves t [0x3FFF8000000000000000, 0x40008000000000000000, 0x3FFF8000000000000000] 0x00) ∧
    (shows (run [0xDD, 0xDA] (machine 0x03FF [0x3FFF8000000000000000, 0x40008000000000000000, 0x4000C000000000000000])) fun t => leaves t [0x40008000000000000000, 0x3FFF8000000000000000] 0x00) := by decide +kernel

/-- FXCH ST(1) (section 2.1). -/
theorem test_fxch :
    shows (run [0xD9, 0xC9] (machine 0x03FF [0x3FFF8000000000000000, 0x00000000000000000000])) fun t => leaves t [0x00000000000000000000, 0x3FFF8000000000000000] 0x00 := by decide +kernel

/-- FIST: nearest even, the range of a word, a tie at its end (section 2.1). -/
theorem test_fist :
    (shows (run [0xDF, 0x16, 0x00, 0x20] (machine 0x03FF [0x4000A000000000000000])) fun t => stored t [0x02, 0x00] && leaves t [0x4000A000000000000000] 0x20) ∧
    (shows (run [0xDF, 0x16, 0x00, 0x20] (machine 0x03FF [0x400DFFFF000000000000])) fun t => stored t [0x00, 0x80] && leaves t [0x400DFFFF000000000000] 0x01) ∧
    (shows (run [0xDB, 0x16, 0x00, 0x20] (machine 0x0FFF [0xC000A000000000000000])) fun t => stored t [0xFE, 0xFF, 0xFF, 0xFF] && leaves t [0xC000A000000000000000] 0x20) := by decide +kernel

/-- FISTP of the three formats pops (section 2.1). -/
theorem test_fistp :
    (shows (run [0xDF, 0x3E, 0x00, 0x20] (machine 0x03FF [0x403ADE0B6B3A76400000])) fun t => stored t [0x00, 0x00, 0x64, 0xA7, 0xB3, 0xB6, 0xE0, 0x0D] && leaves t [] 0x00) ∧
    (shows (run [0xDF, 0x1E, 0x00, 0x20] (machine 0x03FF [0x80000000000000000000])) fun t => stored t [0x00, 0x00] && leaves t [] 0x00) ∧
    (shows (run [0xDB, 0x1E, 0x00, 0x20] (machine 0x03FF [0xC005FC00000000000000])) fun t => stored t [0x82, 0xFF, 0xFF, 0xFF] && leaves t [] 0x00) := by decide +kernel

/-- FBSTP: halves away from zero, no P; the indefinite (section 2.1). -/
theorem test_fbstp :
    (shows (run [0xDF, 0x36, 0x00, 0x20] (machine 0x03FF [0xC000A000000000000000])) fun t => stored t [0x03, 0x00, 0x00, 0x00, 0x00, 0x00, 0x00, 0x00, 0x00, 0x80] && leaves t [] 0x00) ∧
    (shows (run [0xDF, 0x36, 0x00, 0x20] (machine 0x03FF [0x403ADE0B6B3A76400000])) fun t => leaves t [] 0x01) := by decide +kernel

/-- FST and FISTP of an empty top, I masked and unmasked (section 2.1). -/
theorem test_store_empty :
    (shows (run [0xD9, 0x16, 0x00, 0x20] (machine 0x03FF [])) fun t => stored t [0x00, 0x00, 0xC0, 0xFF] && leaves t [] 0x01) ∧
    (shows (run [0xDF, 0x1E, 0x00, 0x20] (machine 0x03FE [0x3FFF8000000000000000])) fun t => stored t [0x01, 0x00]) ∧
    (shows (run [0xD9, 0x16, 0x00, 0x20] (machine 0x03FE [] [0x55])) fun t => stored t [0x55] && leaves t [] 0x01 && t.pending && t.sw.ir && t.sw.busy) := by decide +kernel

/-- The six operations on ST = 8 and a memory operand 2 (D8; by hand). -/
theorem test_basic_short :
    (shows (run [0xD8, 0x06, 0x00, 0x20] (machine 0x03FF [0x40028000000000000000] [0x00, 0x00, 0x00, 0x40])) fun t => leaves t [0x4002A000000000000000] 0x00) ∧
    (shows (run [0xD8, 0x0E, 0x00, 0x20] (machine 0x03FF [0x40028000000000000000] [0x00, 0x00, 0x00, 0x40])) fun t => leaves t [0x40038000000000000000] 0x00) ∧
    (shows (run [0xD8, 0x26, 0x00, 0x20] (machine 0x03FF [0x40028000000000000000] [0x00, 0x00, 0x00, 0x40])) fun t => leaves t [0x4001C000000000000000] 0x00) ∧
    (shows (run [0xD8, 0x2E, 0x00, 0x20] (machine 0x03FF [0x40028000000000000000] [0x00, 0x00, 0x00, 0x40])) fun t => leaves t [0xC001C000000000000000] 0x00) ∧
    (shows (run [0xD8, 0x36, 0x00, 0x20] (machine 0x03FF [0x40028000000000000000] [0x00, 0x00, 0x00, 0x40])) fun t => leaves t [0x40018000000000000000] 0x00) ∧
    (shows (run [0xD8, 0x3E, 0x00, 0x20] (machine 0x03FF [0x40028000000000000000] [0x00, 0x00, 0x00, 0x40])) fun t => leaves t [0x3FFD8000000000000000] 0x00) := by decide +kernel

/-- The six operations on ST = 8 and a memory operand 2 (DC; by hand). -/
theorem test_basic_long :
    (shows (run [0xDC, 0x06, 0x00, 0x20] (machine 0x03FF [0x40028000000000000000] [0x00, 0x00, 0x00, 0x00, 0x00, 0x00, 0x00, 0x40])) fun t => leaves t [0x4002A000000000000000] 0x00) ∧
    (shows (run [0xDC, 0x0E, 0x00, 0x20] (machine 0x03FF [0x40028000000000000000] [0x00, 0x00, 0x00, 0x00, 0x00, 0x00, 0x00, 0x40])) fun t => leaves t [0x40038000000000000000] 0x00) ∧
    (shows (run [0xDC, 0x26, 0x00, 0x20] (machine 0x03FF [0x40028000000000000000] [0x00, 0x00, 0x00, 0x00, 0x00, 0x00, 0x00, 0x40])) fun t => leaves t [0x4001C000000000000000] 0x00) ∧
    (shows (run [0xDC, 0x2E, 0x00, 0x20] (machine 0x03FF [0x40028000000000000000] [0x00, 0x00, 0x00, 0x00, 0x00, 0x00, 0x00, 0x40])) fun t => leaves t [0xC001C000000000000000] 0x00) ∧
    (shows (run [0xDC, 0x36, 0x00, 0x20] (machine 0x03FF [0x40028000000000000000] [0x00, 0x00, 0x00, 0x00, 0x00, 0x00, 0x00, 0x40])) fun t => leaves t [0x40018000000000000000] 0x00) ∧
    (shows (run [0xDC, 0x3E, 0x00, 0x20] (machine 0x03FF [0x40028000000000000000] [0x00, 0x00, 0x00, 0x00, 0x00, 0x00, 0x00, 0x40])) fun t => leaves t [0x3FFD8000000000000000] 0x00) := by decide +kernel

/-- The six operations on ST = 8 and a memory operand 2 (DE; by hand). -/
theorem test_basic_word :
    (shows (run [0xDE, 0x06, 0x00, 0x20] (machine 0x03FF [0x40028000000000000000] [0x02, 0x00])) fun t => leaves t [0x4002A000000000000000] 0x00) ∧
    (shows (run [0xDE, 0x0E, 0x00, 0x20] (machine 0x03FF [0x40028000000000000000] [0x02, 0x00])) fun t => leaves t [0x40038000000000000000] 0x00) ∧
    (shows (run [0xDE, 0x26, 0x00, 0x20] (machine 0x03FF [0x40028000000000000000] [0x02, 0x00])) fun t => leaves t [0x4001C000000000000000] 0x00) ∧
    (shows (run [0xDE, 0x2E, 0x00, 0x20] (machine 0x03FF [0x40028000000000000000] [0x02, 0x00])) fun t => leaves t [0xC001C000000000000000] 0x00) ∧
    (shows (run [0xDE, 0x36, 0x00, 0x20] (machine 0x03FF [0x40028000000000000000] [0x02, 0x00])) fun t => leaves t [0x40018000000000000000] 0x00) ∧
    (shows (run [0xDE, 0x3E, 0x00, 0x20] (machine 0x03FF [0x40028000000000000000] [0x02, 0x00])) fun t => leaves t [0x3FFD8000000000000000] 0x00) := by decide +kernel

/-- The six operations on ST = 8 and a memory operand 2 (DA; by hand). -/
theorem test_basic_short_integer :
    (shows (run [0xDA, 0x06, 0x00, 0x20] (machine 0x03FF [0x40028000000000000000] [0x02, 0x00, 0x00, 0x00])) fun t => leaves t [0x4002A000000000000000] 0x00) ∧
    (shows (run [0xDA, 0x0E, 0x00, 0x20] (machine 0x03FF [0x40028000000000000000] [0x02, 0x00, 0x00, 0x00])) fun t => leaves t [0x40038000000000000000] 0x00) ∧
    (shows (run [0xDA, 0x26, 0x00, 0x20] (machine 0x03FF [0x40028000000000000000] [0x02, 0x00, 0x00, 0x00])) fun t => leaves t [0x4001C000000000000000] 0x00) ∧
    (shows (run [0xDA, 0x2E, 0x00, 0x20] (machine 0x03FF [0x40028000000000000000] [0x02, 0x00, 0x00, 0x00])) fun t => leaves t [0xC001C000000000000000] 0x00) ∧
    (shows (run [0xDA, 0x36, 0x00, 0x20] (machine 0x03FF [0x40028000000000000000] [0x02, 0x00, 0x00, 0x00])) fun t => leaves t [0x40018000000000000000] 0x00) ∧
    (shows (run [0xDA, 0x3E, 0x00, 0x20] (machine 0x03FF [0x40028000000000000000] [0x02, 0x00, 0x00, 0x00])) fun t => leaves t [0x3FFD8000000000000000] 0x00) := by decide +kernel

/-- The six operations ST,ST(1) on 8 and 2 (by hand). -/
theorem test_basic_to_top :
    (shows (run [0xD8, 0xC1] (machine 0x03FF [0x40028000000000000000, 0x40008000000000000000])) fun t => leaves t [0x4002A000000000000000, 0x40008000000000000000] 0x00) ∧
    (shows (run [0xD8, 0xC9] (machine 0x03FF [0x40028000000000000000, 0x40008000000000000000])) fun t => leaves t [0x40038000000000000000, 0x40008000000000000000] 0x00) ∧
    (shows (run [0xD8, 0xE1] (machine 0x03FF [0x40028000000000000000, 0x40008000000000000000])) fun t => leaves t [0x4001C000000000000000, 0x40008000000000000000] 0x00) ∧
    (shows (run [0xD8, 0xE9] (machine 0x03FF [0x40028000000000000000, 0x40008000000000000000])) fun t => leaves t [0xC001C000000000000000, 0x40008000000000000000] 0x00) ∧
    (shows (run [0xD8, 0xF1] (machine 0x03FF [0x40028000000000000000, 0x40008000000000000000])) fun t => leaves t [0x40018000000000000000, 0x40008000000000000000] 0x00) ∧
    (shows (run [0xD8, 0xF9] (machine 0x03FF [0x40028000000000000000, 0x40008000000000000000])) fun t => leaves t [0x3FFD8000000000000000, 0x40008000000000000000] 0x00) := by decide +kernel

/-- The six operations ST(1),ST on 8 and 2: destination less source, and reversed (by hand). -/
theorem test_basic_to_register :
    (shows (run [0xDC, 0xC1] (machine 0x03FF [0x40028000000000000000, 0x40008000000000000000])) fun t => leaves t [0x40028000000000000000, 0x4002A000000000000000] 0x00) ∧
    (shows (run [0xDC, 0xC9] (machine 0x03FF [0x40028000000000000000, 0x40008000000000000000])) fun t => leaves t [0x40028000000000000000, 0x40038000000000000000] 0x00) ∧
    (shows (run [0xDC, 0xE9] (machine 0x03FF [0x40028000000000000000, 0x40008000000000000000])) fun t => leaves t [0x40028000000000000000, 0xC001C000000000000000] 0x00) ∧
    (shows (run [0xDC, 0xE1] (machine 0x03FF [0x40028000000000000000, 0x40008000000000000000])) fun t => leaves t [0x40028000000000000000, 0x4001C000000000000000] 0x00) ∧
    (shows (run [0xDC, 0xF9] (machine 0x03FF [0x40028000000000000000, 0x40008000000000000000])) fun t => leaves t [0x40028000000000000000, 0x3FFD8000000000000000] 0x00) ∧
    (shows (run [0xDC, 0xF1] (machine 0x03FF [0x40028000000000000000, 0x40008000000000000000])) fun t => leaves t [0x40028000000000000000, 0x40018000000000000000] 0x00) := by decide +kernel

/-- The six operations ST(1),ST that pop, on 8 and 2 (by hand). -/
theorem test_basic_pop :
    (shows (run [0xDE, 0xC1] (machine 0x03FF [0x40028000000000000000, 0x40008000000000000000])) fun t => leaves t [0x4002A000000000000000] 0x00) ∧
    (shows (run [0xDE, 0xC9] (machine 0x03FF [0x40028000000000000000, 0x40008000000000000000])) fun t => leaves t [0x40038000000000000000] 0x00) ∧
    (shows (run [0xDE, 0xE9] (machine 0x03FF [0x40028000000000000000, 0x40008000000000000000])) fun t => leaves t [0xC001C000000000000000] 0x00) ∧
    (shows (run [0xDE, 0xE1] (machine 0x03FF [0x40028000000000000000, 0x40008000000000000000])) fun t => leaves t [0x4001C000000000000000] 0x00) ∧
    (shows (run [0xDE, 0xF9] (machine 0x03FF [0x40028000000000000000, 0x40008000000000000000])) fun t => leaves t [0x3FFD8000000000000000] 0x00) ∧
    (shows (run [0xDE, 0xF1] (machine 0x03FF [0x40028000000000000000, 0x40008000000000000000])) fun t => leaves t [0x40018000000000000000] 0x00) := by decide +kernel

/-- FADD of 1 and 2^-64: a tie to even, and up (section 2.2). -/
theorem test_fadd_rounding :
    (shows (run [0xD8, 0xC1] (machine 0x03FF [0x3FFF8000000000000000, 0x3FBF8000000000000000])) fun t => leaves t [0x3FFF8000000000000000, 0x3FBF8000000000000000] 0x20) ∧
    (shows (run [0xD8, 0xC1] (machine 0x0BFF [0x3FFF8000000000000000, 0x3FBF8000000000000000])) fun t => leaves t [0x3FFF8000000000000001, 0x3FBF8000000000000000] 0x20) := by decide +kernel

/-- FSUB of equal numbers: +0, or -0 rounding down (section 2.2). -/
theorem test_fsub_zero :
    (shows (run [0xD8, 0xE1] (machine 0x03FF [0x4000A000000000000000, 0x4000A000000000000000])) fun t => leaves t [0x00000000000000000000, 0x4000A000000000000000] 0x00) ∧
    (shows (run [0xD8, 0xE1] (machine 0x07FF [0x4000A000000000000000, 0x4000A000000000000000])) fun t => leaves t [0x80000000000000000000, 0x4000A000000000000000] 0x00) := by decide +kernel

/-- FMUL: masked and unmasked overflow (section 2.2). -/
theorem test_fmul_overflow :
    (shows (run [0xD8, 0xC9] (machine 0x03FF [0x7FFEFFFFFFFFFFFFFFFF, 0x40008000000000000000])) fun t => leaves t [0x7FFF8000000000000000, 0x40008000000000000000] 0x28) ∧
    (shows (run [0xD8, 0xC9] (machine 0x03F7 [0x7FFEFFFFFFFFFFFFFFFF, 0x40008000000000000000])) fun t => leaves t [0x1FFFFFFFFFFFFFFFFFFF, 0x40008000000000000000] 0x08 && t.sw.ir && t.sw.busy) := by decide +kernel

/-- FMUL: masked underflow is exact, a product of zero, zero times infinity (section 2.2). -/
theorem test_fmul_underflow :
    (shows (run [0xD8, 0xC9] (machine 0x03FF [0x00018000000000000000, 0x3FFE8000000000000000])) fun t => leaves t [0x00004000000000000000, 0x3FFE8000000000000000] 0x10) ∧
    (shows (run [0xD8, 0xC9] (machine 0x03FF [0x00000000000000000000, 0x7FFF8000000000000000])) fun t => leaves t [0xFFFFC000000000000000, 0x7FFF8000000000000000] 0x01) := by decide +kernel

/-- FDIV of 1 by 3 at the three precisions (section 2.2). -/
theorem test_fdiv_precision :
    (shows (run [0xD8, 0xF1] (machine 0x03FF [0x3FFF8000000000000000, 0x4000C000000000000000])) fun t => leaves t [0x3FFDAAAAAAAAAAAAAAAB, 0x4000C000000000000000] 0x20) ∧
    (shows (run [0xD8, 0xF1] (machine 0x00FF [0x3FFF8000000000000000, 0x4000C000000000000000])) fun t => leaves t [0x3FFDAAAAAB0000000000, 0x4000C000000000000000] 0x20) ∧
    (shows (run [0xD8, 0xF1] (machine 0x02FF [0x3FFF8000000000000000, 0x4000C000000000000000])) fun t => leaves t [0x3FFDAAAAAAAAAAAAA800, 0x4000C000000000000000] 0x20) := by decide +kernel

/-- FDIV by zero: masked, zero by zero, and unmasked, which changes nothing (section 2.2). -/
theorem test_fdiv_zero :
    (shows (run [0xD8, 0xF1] (machine 0x03FF [0xBFFF8000000000000000, 0x00000000000000000000])) fun t => leaves t [0xFFFF8000000000000000, 0x00000000000000000000] 0x04) ∧
    (shows (run [0xD8, 0xF1] (machine 0x03FF [0x00000000000000000000, 0x00000000000000000000])) fun t => leaves t [0xFFFFC000000000000000, 0x00000000000000000000] 0x01) ∧
    (shows (run [0xD8, 0xF1] (machine 0x03FB [0x3FFF8000000000000000, 0x00000000000000000000])) fun t => leaves t [0x3FFF8000000000000000, 0x00000000000000000000] 0x04 && t.sw.ir && t.sw.busy) := by decide +kernel

/-- FSQRT (section 2.2). -/
theorem test_fsqrt :
    (shows (run [0xD9, 0xFA] (machine 0x0BFF [0x40008000000000000000])) fun t => leaves t [0x3FFFB504F333F9DE6485] 0x20) ∧
    (shows (run [0xD9, 0xFA] (machine 0x03FF [0x40018000000000000000])) fun t => leaves t [0x40008000000000000000] 0x00) ∧
    (shows (run [0xD9, 0xFA] (machine 0x03FF [0x80000000000000000000])) fun t => leaves t [0x80000000000000000000] 0x00) ∧
    (shows (run [0xD9, 0xFA] (machine 0x03FF [0xBFFF8000000000000000])) fun t => leaves t [0xFFFFC000000000000000] 0x01) := by decide +kernel

/-- FSCALE chops the scale factor (section 2.2). -/
theorem test_fscale :
    (shows (run [0xD9, 0xFD] (machine 0x03FF [0x3FFF8000000000000000, 0x4000E000000000000000])) fun t => leaves t [0x40028000000000000000, 0x4000E000000000000000] 0x00) ∧
    (shows (run [0xD9, 0xFD] (machine 0x03FF [0x3FFF8000000000000000, 0xC000E000000000000000])) fun t => leaves t [0x3FFC8000000000000000, 0xC000E000000000000000] 0x00) := by decide +kernel

/-- FPREM of -7 and of 20 by 3, with the quotient bits (section 2.2). -/
theorem test_fprem :
    (shows (run [0xD9, 0xF8] (machine 0x03FF [0xC001E000000000000000, 0x4000C000000000000000])) fun t => leaves t [0xBFFF8000000000000000, 0x4000C000000000000000] 0x00 && t.sw.code = 8#4) ∧
    (shows (run [0xD9, 0xF8] (machine 0x03FF [0x4003A000000000000000, 0x4000C000000000000000])) fun t => leaves t [0x40008000000000000000, 0x4000C000000000000000] 0x00 && t.sw.code = 9#4) := by decide +kernel

/-- FPREM where the exponents differ by 127: the reduction is not complete (section 2.2). -/
theorem test_fprem_partial : (premOf .init 0 0x407F8000000000000000 0x4000C000000000000000).partialResult = true := by
  decide +kernel

/-- FRNDINT by RC (S4). -/
theorem test_frndint :
    (shows (run [0xD9, 0xFC] (machine 0x07FF [0x40069BA0000000000000])) fun t => leaves t [0x40069B00000000000000] 0x20) ∧
    (shows (run [0xD9, 0xFC] (machine 0x03FF [0x40069BA0000000000000])) fun t => leaves t [0x40069C00000000000000] 0x20) ∧
    (shows (run [0xD9, 0xFC] (machine 0x03FF [0xBFFE8000000000000000])) fun t => leaves t [0x80000000000000000000] 0x20) := by decide +kernel

/-- FXTRACT (S3). -/
theorem test_fxtract :
    (shows (run [0xD9, 0xF4] (machine 0x03FF [0x4003A000000000000000])) fun t => leaves t [0x3FFFA000000000000000, 0x40018000000000000000] 0x00) ∧
    (shows (run [0xD9, 0xF4] (machine 0x03FF [0x3FF88000000000000000])) fun t => leaves t [0x3FFF8000000000000000, 0xC001E000000000000000] 0x00) ∧
    (shows (run [0xD9, 0xF4] (machine 0x03FF [0x80000000000000000000])) fun t => leaves t [0x80000000000000000000, 0x80000000000000000000] 0x00) := by decide +kernel

/-- FABS and FCHS (section 2.2). -/
theorem test_fabs_fchs :
    (shows (run [0xD9, 0xE1] (machine 0x03FF [0xC005FC00000000000000])) fun t => leaves t [0x4005FC00000000000000] 0x00) ∧
    (shows (run [0xD9, 0xE0] (machine 0x03FF [0x00000000000000000000])) fun t => leaves t [0x80000000000000000000] 0x00) := by decide +kernel

/-- Table of FCOM and FTST: C3 C0 of each order, whatever C2 and C1 are (S6). -/
theorem test_order_code (s : State) :
    ((s.compareCode .greater).getLsbD 3, (s.compareCode .greater).getLsbD 0) = (false, false) ∧
    ((s.compareCode .less).getLsbD 3, (s.compareCode .less).getLsbD 0) = (false, true) ∧
    ((s.compareCode .equal).getLsbD 3, (s.compareCode .equal).getLsbD 0) = (true, false) ∧
    ((s.compareCode .unordered).getLsbD 3, (s.compareCode .unordered).getLsbD 0) = (true, true) := by
  unfold State.compareCode
  generalize s.freeCode = c
  revert c
  decide

/-- The orders of section 2.4: by value, zeros of either sign, infinity under both closures, a NAN. -/
theorem test_order :
    compareReal (.ofBits 0x03FF) 0x3FFF8000000000000000 0x40008000000000000000 = .less ∧
    compareReal (.ofBits 0x03FF) 0x40008000000000000000 0x3FFF8000000000000000 = .greater ∧
    compareReal (.ofBits 0x03FF) 0 0x80000000000000000000 = .equal ∧
    compareReal (.ofBits 0x03FF) 0x3FFF8000000000000000 0x7FFF8000000000000000 = .unordered ∧
    compareReal (.ofBits 0x13FF) 0x3FFF8000000000000000 0x7FFF8000000000000000 = .less ∧
    compareReal (.ofBits 0x03FF) 0x3FFF8000000000000000 0xFFFFC000000000000000 = .unordered := by decide +kernel

/-- FCOM ST(1) and of memory: the stack stays; projective infinity flags I (section 2.4). -/
theorem test_fcom :
    (shows (run [0xD8, 0xD1] (machine 0x03FF [0x3FFF8000000000000000, 0x7FFF8000000000000000])) fun t => leaves t [0x3FFF8000000000000000, 0x7FFF8000000000000000] 0x01) ∧
    (shows (run [0xD8, 0x16, 0x00, 0x20] (machine 0x03FF [0x4000C000000000000000] [0x00, 0x00, 0x40, 0x40])) fun t => leaves t [0x4000C000000000000000] 0x00) ∧
    (shows (run [0xDC, 0x16, 0x00, 0x20] (machine 0x03FF [0x40008000000000000000] [0x00, 0x00, 0x00, 0x00, 0x00, 0x80, 0x5F, 0xC0])) fun t => leaves t [0x40008000000000000000] 0x00) := by decide +kernel

/-- FCOMP ST(1), short and long real; FCOMPP (section 2.4). -/
theorem test_fcomp :
    (shows (run [0xD8, 0xD9] (machine 0x03FF [0x4000C000000000000000, 0x40008000000000000000])) fun t => leaves t [0x40008000000000000000] 0x00) ∧
    (shows (run [0xD8, 0x1E, 0x00, 0x20] (machine 0x03FF [0x4000C000000000000000] [0x00, 0x00, 0x40, 0x40])) fun t => leaves t [] 0x00) ∧
    (shows (run [0xDC, 0x1E, 0x00, 0x20] (machine 0x03FF [0xC001E000000000000000] [0x00, 0x00, 0x00, 0x00, 0x00, 0x80, 0x5F, 0xC0])) fun t => leaves t [] 0x00) ∧
    (shows (run [0xDE, 0xD9] (machine 0x03FF [0x40008000000000000000, 0x3FFF8000000000000000])) fun t => leaves t [] 0x00) := by decide +kernel

/-- FICOM and FICOMP: the pops (section 2.4). -/
theorem test_ficom :
    (shows (run [0xDE, 0x16, 0x00, 0x20] (machine 0x03FF [0x4000A000000000000000] [0x03, 0x00])) fun t => leaves t [0x4000A000000000000000] 0x00) ∧
    (shows (run [0xDA, 0x16, 0x00, 0x20] (machine 0x03FF [0x4000A000000000000000] [0x02, 0x00, 0x00, 0x00])) fun t => leaves t [0x4000A000000000000000] 0x00) ∧
    (shows (run [0xDA, 0x1E, 0x00, 0x20] (machine 0x03FF [0xC005FC00000000000000] [0x82, 0xFF, 0xFF, 0xFF])) fun t => leaves t [] 0x00) ∧
    (shows (run [0xDE, 0x1E, 0x00, 0x20] (machine 0x03FF [0xC005FC00000000000000] [0x82, 0xFF])) fun t => leaves t [] 0x00) := by decide +kernel

/-- FTST (section 2.4). -/
theorem test_ftst :
    (shows (run [0xD9, 0xE4] (machine 0x03FF [0xC001E000000000000000])) fun t => leaves t [0xC001E000000000000000] 0x00) ∧
    (shows (run [0xD9, 0xE4] (machine 0x03FF [0x7FFF8000000000000000])) fun t => leaves t [0x7FFF8000000000000000] 0x01) := by decide +kernel

/-- FXAM, one row of each class (section 2.4). -/
theorem test_fxam :
    (shows (run [0xD9, 0xE5] (machine 0x03FF [0x4000A000000000000000])) fun t => t.sw.code = 4#4) ∧
    (shows (run [0xD9, 0xE5] (machine 0x03FF [0x80000000000000000000])) fun t => t.sw.code = 10#4) ∧
    (shows (run [0xD9, 0xE5] (machine 0x03FF [0xFFFF8000000000000000])) fun t => t.sw.code = 7#4) ∧
    (shows (run [0xD9, 0xE5] (machine 0x03FF [0xFFFFC000000000000000])) fun t => t.sw.code = 3#4) ∧
    (shows (run [0xD9, 0xE5] (machine 0x03FF [0x80000000000000000001])) fun t => t.sw.code = 14#4) ∧
    (shows (run [0xD9, 0xE5] (machine 0x03FF [0xC0004000000000000000])) fun t => t.sw.code = 2#4) ∧
    (shows (run [0xD9, 0xE5] (machine 0x03FF [])) fun t => leaves t [] 0x00) := by decide +kernel

/-- FPTAN of 1/2 pushes, P; with ST empty I and two indefinites (section 2.5). -/
theorem test_fptan :
    (shows (run [0xD9, 0xF2] (machine 0x03FF [0x3FFE8000000000000000])) fun t => t.sw.top = 6 && t.sw.ex.toBits = 0x20) ∧
    (shows (run [0xD9, 0xF2] (machine 0x03FF [])) fun t => t.sw.ex = .onlyI && (t.st 0) = indefinite && (t.st 1) = indefinite) := by decide +kernel

/-- FPATAN of 1 and 2 pops, P (section 2.5). -/
theorem test_fpatan :
    shows (run [0xD9, 0xF3] (machine 0x03FF [0x40008000000000000000, 0x3FFF8000000000000000])) fun t => t.sw.top = 7 && t.sw.ex.toBits = 0x20 := by decide +kernel

/-- F2XM1 of +0 is +0, of 1/2 inexact (section 2.5). -/
theorem test_f2xm1 :
    (shows (run [0xD9, 0xF0] (machine 0x03FF [0x00000000000000000000])) fun t => leaves t [0x00000000000000000000] 0x00) ∧
    (shows (run [0xD9, 0xF0] (machine 0x03FF [0x3FFE8000000000000000])) fun t => t.sw.top = 7 && t.sw.ex.toBits = 0x20) := by decide +kernel

/-- FYL2X of an empty operand (section 2.5); out of range it raises nothing (R380). -/
theorem test_fyl2x :
    (shows (run [0xD9, 0xF1] (machine 0x03FF [0x40028000000000000000])) fun t => t.sw.ex = .onlyI && t.st 0 = indefinite && t.sw.top = 0) ∧
    (shows (run [0xD9, 0xF1] (machine 0x03FF [0xBFFF8000000000000000, 0x40008000000000000000])) fun t => t.sw.top = 7 && t.sw.ex = .none) := by decide +kernel

/-- FYL2XP1 of 1/4 and 1 pops, P (section 2.5). -/
theorem test_fyl2xp1 :
    shows (run [0xD9, 0xF9] (machine 0x03FF [0x3FFD8000000000000000, 0x3FFF8000000000000000])) fun t => t.sw.top = 7 && t.sw.ex.toBits = 0x20 := by decide +kernel

/-- The seven constants (section 2.6). -/
theorem test_constants :
    (shows (run [0xD9, 0xEE] (machine 0x03FF [])) fun t => leaves t [0x00000000000000000000] 0x00) ∧
    (shows (run [0xD9, 0xE8] (machine 0x03FF [])) fun t => leaves t [0x3FFF8000000000000000] 0x00) ∧
    (shows (run [0xD9, 0xEB] (machine 0x03FF [])) fun t => leaves t [0x4000C90FDAA22168C235] 0x00) ∧
    (shows (run [0xD9, 0xE9] (machine 0x03FF [])) fun t => leaves t [0x4000D49A784BCD1B8AFE] 0x00) ∧
    (shows (run [0xD9, 0xEA] (machine 0x03FF [])) fun t => leaves t [0x3FFFB8AA3B295C17F0BC] 0x00) ∧
    (shows (run [0xD9, 0xEC] (machine 0x03FF [])) fun t => leaves t [0x3FFD9A209A84FBCFF799] 0x00) ∧
    (shows (run [0xD9, 0xED] (machine 0x03FF [])) fun t => leaves t [0x3FFEB17217F7D1CF79AC] 0x00) := by decide +kernel

/-- A ninth push, I masked and unmasked (section 2.1, P4). -/
theorem test_constant_overflow :
    (shows (run [0xD9, 0xEE] (machine 0x03FF [0x3FFF8000000000000000, 0x3FFF8000000000000000, 0x3FFF8000000000000000, 0x3FFF8000000000000000, 0x3FFF8000000000000000, 0x3FFF8000000000000000, 0x3FFF8000000000000000, 0x3FFF8000000000000000])) fun t => t.sw.top = 7 && t.st 0 = indefinite && t.stTag 0 = .special && t.sw.ex = .onlyI) ∧
    (shows (run [0xD9, 0xEE] (machine 0x03FE [0x3FFF8000000000000000, 0x3FFF8000000000000000, 0x3FFF8000000000000000, 0x3FFF8000000000000000, 0x3FFF8000000000000000, 0x3FFF8000000000000000, 0x3FFF8000000000000000, 0x3FFF8000000000000000])) fun t => leaves t [0x3FFF8000000000000000, 0x3FFF8000000000000000, 0x3FFF8000000000000000, 0x3FFF8000000000000000, 0x3FFF8000000000000000, 0x3FFF8000000000000000, 0x3FFF8000000000000000, 0x3FFF8000000000000000] 0x01 && t.pending) := by decide +kernel

/-- FINIT (section 2.7): registers keep their bits. -/
theorem test_finit :
    shows (run [0xDB, 0xE3] (machine 0x0B00 [0x3FFF8000000000000000, 0x40008000000000000000])) fun t => t.cw.toBits = 0x03FF && tagWord t.tags = 0xFFFF && t.sw.top = 0 && t.sw.ex = .none && t.reg 6 = oneReal := by decide +kernel

/-- FSTCW after FINIT (section 2.7). -/
theorem test_fstcw :
    shows (run [0xD9, 0x3E, 0x00, 0x20] (machine 0x03FF [])) fun t => stored t [0xFF, 0x03] && leaves t [] 0x00 := by decide +kernel

/-- FLDCW with IE set and I unmasked by the new word: an immediate interrupt request (section 2.7). -/
theorem test_fldcw :
    (shows (run [0xD9, 0x2E, 0x00, 0x20] (machine 0x03FF [] [0x3E, 0x03])) fun t =>
      t.cw.masks.toBits = 0x3E && t.cw.iem = false && t.cw.pc = 3 && !t.pending) ∧
    (shows (run [0xD9, 0x2E, 0x00, 0x20]
        { machine 0x03FF [] [0x3E, 0x03] with sw := { State.reset.sw with ex := .onlyI } }) fun t =>
      t.sw.ir && t.sw.busy && t.pending && t.intLine) := by decide +kernel

/-- FDISI and FENI (section 2.7). -/
theorem test_fdisi_feni :
    (shows (run [0xDB, 0xE1] (machine 0x033E [])) fun t => t.cw.toBits = 0x03BE) ∧
    (shows (run [0xDB, 0xE0] (machine 0x03BE [])) fun t => t.cw.toBits = 0x033E) := by decide +kernel

/-- The status words of P2, and of P3 with the exception pending, whatever bit 6 is (section 2.7). -/
theorem test_status_word : ∀ bit6 : Bool,
    ({ State.reset.sw with top := 6, c0 := true }.toBits bit6 &&& 0xF9BF) = 0x3100#16 ∧
    ({ State.reset.sw with top := 6, busy := true, ir := true, ex := .onlyZ }.toBits bit6 &&& 0xB8BF) = 0xB084#16 := by
  decide
theorem test_fstsw : shows (run [0xDD, 0x3E, 0x00, 0x20] (machine 0x03FF [0, 0])) fun t => leaves t [0, 0] 0 := by
  decide +kernel
/-- FCLEX in P3: the flags, IR, B and `pending` go, and both lines (section 2.7). -/
theorem test_fclex :
    (match run [0xD8, 0xF1] (machine 0x033B [0x3FFF8000000000000000, 0]) with
      | none => false
      | some s => s.intLine && s.busyLine && (match execFclex s with
        | .next t => t.sw.ex = .none && !t.pending && !t.sw.ir && !t.sw.busy && !t.intLine && t.sw.top = 6
        | _ => false)) = true := by decide +kernel

/-- FINCSTP, FDECSTP, FFREE ST(1), FNOP with ST empty (section 2.7). -/
theorem test_stack_pointer :
    (shows (run [0xD9, 0xF7] (machine 0x03FF [0x3FFF8000000000000000])) fun t => t.sw.top = 0 && t.tag 7 = .valid && t.reg 7 = oneReal) ∧
    (shows (run [0xD9, 0xF6] (machine 0x03FF [])) fun t => t.sw.top = 7 && t.tag 7 = .empty) ∧
    (shows (run [0xDD, 0xC1] (machine 0x03FF [0x40008000000000000000, 0x3FFF8000000000000000])) fun t => t.sw.top = 6 && t.tag 7 = .empty && t.reg 7 = oneReal && t.tag 6 = .valid) ∧
    (shows (run [0xD9, 0xD0] (machine 0x03FF [])) fun t => leaves t [] 0x00) := by decide +kernel

/-- A state with something in each word of the environment. -/
def environment : State :=
  { machine 0x033B [0, 0x3FFF8000000000000000] with iptr := 0x1234F, opc := 0x6F9, dptr := 0x56789 }

/-- The environment image, whatever bit 6 of the status word is (10_state.md R53). -/
theorem test_environment_image : ∃ bit6 : Bool,
    environment.envImage = BitVec.ofNat 112 (0x5000678916F9234F1FFF3000033B + if bit6 then 0x400000 else 0) := by
  have h : ∀ bit6 : Bool,
      environment.dptr.extractLsb' 16 4 ++ (0 : BitVec 12) ++ environment.dptr.extractLsb' 0 16 ++
      environment.iptr.extractLsb' 16 4 ++ (0 : BitVec 1) ++ environment.opc ++ environment.iptr.extractLsb' 0 16 ++
      tagWord environment.tags ++ environment.sw.toBits bit6 ++ environment.cw.toBits =
      BitVec.ofNat 112 (0x5000678916F9234F1FFF3000033B + if bit6 then 0x400000 else 0) := by decide +kernel
  exact ⟨_, h (Config.freeStatusBit environment.draws)⟩
/-- FSTENV sets all masks after it has stored (R430). -/
theorem test_fstenv : shows (run [0xD9, 0x36, 0x00, 0x20] environment) fun t => t.cw.toBits = 0x033F := by
  decide +kernel

/-- The first 24 bytes of an image: 14 of environment and ST. -/
def image : List Nat :=
  [0x7F, 0x03, 0x04, 0x31, 0xFF, 0x1F, 0x4F, 0x23, 0xF9, 0x16, 0x89, 0x67, 0x00, 0x50,
   0x01, 0x00, 0x00, 0x00, 0x00, 0x00, 0x00, 0x80, 0xFF, 0x3F]

/-- FLDENV of it: TOP, C0, ZE, tags and pointers (R53, R432). -/
theorem test_fldenv :
    (shows (run [0xD9, 0x26, 0x00, 0x20] (machine 0x03FF [] image)) fun t =>
      t.sw.top = 6 && t.sw.c0 && t.sw.ex = .onlyZ && tagWord t.tags = 0x1FFF && t.iptr = 0x1234F &&
      t.opc = 0x6F9 && t.dptr = 0x56789 && !t.cw.iem && !t.pending && t.reg 6 = 0) := by decide +kernel
/-- FRSTOR of it: the same, and ST (R434). -/
theorem test_frstor :
    (shows (run [0xDD, 0x26, 0x00, 0x20] (machine 0x03FF [] image)) fun t =>
      t.sw.top = 6 && t.st 0 = 0x3FFF8000000000000001#80 && t.stTag 0 = .zero) := by decide +kernel
/-- FSAVE: ST and ST(1) from byte 14 on (R54); then as after FINIT (R433). -/
theorem test_fsave :
    (shows (run [0xDD, 0x36, 0x00, 0x20] environment) fun t => t.cw.toBits = 0x03FF && tagWord t.tags = 0xFFFF) ∧
    (environment.storeStack 0x200E 8).mem.readLE 0x200E 10 = 0 ∧
    (environment.storeStack 0x200E 8).mem.readLE 0x2018 10 = 0x3FFF8000000000000000 := by decide +kernel

/-- The fault of an outcome. -/
def fault? (o : Host.Outcome State Fault Refusal) : Option Fault :=
  match o with
  | .fault r => some r
  | .next _ => none
  | .refused _ => none

/-- The refusal of an outcome. -/
def refusal? (o : Host.Outcome State Fault Refusal) : Option Refusal :=
  match o with
  | .refused r => some r
  | .next _ => none
  | .fault _ => none

/-- FWAIT: on an idle NDP nothing changes; with an exception pending the CPU is stuck (R441, R490). -/
theorem test_fwait :
    (shows (run [0x9B] (machine 0x03FF [])) fun t => t = { machine 0x03FF [] with port := t.port, code := [⟨0x0010E, 2⟩] }) ∧
    fault? (step { machine 0x033E [] with pending := true, inbox := [.insn (event [0x9B])] }) = some .endlessWait := by
  decide +kernel
/-- A reserved opcode does nothing, is refused, or is the instruction it is an alias of (R147, D14; log 20). -/
theorem test_reserved :
    (shows (run [0xD9, 0xD1] (machine 0x03FF [])) fun t => leaves t [] 0 && t.iptr = 0) ∧
    refusal? (step { machine 0x03FF [] with
      conf := { Settings.recommended with reserved := .refuse }
      inbox := [.insn (event [0xD9, 0xD1])] }) = some (.reservedOpcode 0x1D1) ∧
    (shows (run [0xD9, 0xD1] { machine 0x03FF [] with
      conf := { Settings.recommended with reserved := .aliased [(0x1D1, 0x1E8)] } })
      fun t => leaves t [0x3FFF8000000000000000] 0) ∧
    (shows (run [0xDB, 0x26, 0x00, 0x20] { machine 0x03FF [] [0x00, 0x00, 0x20, 0x40] with
      conf := { Settings.recommended with reserved := .aliased [(0x326, 0x106)] } })
      fun t => leaves t [0x4000A000000000000000] 0) := by decide +kernel

/-- The exception pointers of P3's FDIV: IPTR 0010FH, OPC 6F9H. -/
theorem test_pointers :
    shows (run [0xDE, 0xF9] (machine 0x033B [0x00000000000000000000, 0x3FFF8000000000000000])) fun t => t.iptr = 0x0010F && t.opc = 0x6F9 && t.sw.ex = .onlyZ && t.sw.top = 6 := by decide +kernel

/-- R124: a direct operand in DS, and a segment override. -/
theorem test_operand_address :
    (⟨0, 0, none, { CpuRegs.zero with ds := 0x0100, bp := 0xFFFF, ss := 0x2000 }⟩ : Port).ea (.direct 0x0002) = 0x01002 ∧
    (⟨0, 0, none, { CpuRegs.zero with ds := 0x0100, bp := 0xFFFF, ss := 0x2000 }⟩ : Port).ea (.disp8 .bp 2) = 0x20001 ∧
    (⟨0, 0, some .es, { CpuRegs.zero with es := 0xFFFF, bx := 0x0010 }⟩ : Port).ea (.noDisp .bx) = 0x00000 := by
  decide +kernel
/-- An operand past FFFFFH faults (log 8). -/
theorem test_operand_past_top :
    fault? (exec (.fldM32 (.noDisp .bx)) { State.reset with
      port := ⟨0, 0, none, { CpuRegs.zero with ds := 0xFFFF, bx := 0x000D }⟩ }) = some (.operandPastTop 0xFFFFD) := by
  decide +kernel
/-- Outside the allocated memory the operand faults (R89, D4; log 6). -/
theorem test_operand_unallocated :
    fault? (exec (.fldM32 operand) { State.reset with conf := { Settings.recommended with ram := [⟨0, 0x2003⟩] } }) =
      some (.unallocated 0x2003) := by decide +kernel
/-- A store into the bytes of the instruction itself, and a CPU write there (R104, D6; log 44). -/
theorem test_store_into_program :
    refusal? (step { machine 0x03FF [] with inbox := [.insn (event [0xD9, 0x3E, 0x11, 0x01])] }) =
      some (.storeIntoProgram 0x111) ∧
    refusal? (step { machine 0x03FF [] with inbox := [.cpuWrite 0x10E 0, .insn (event [0xD9, 0xE8])] }) =
      some (.storeIntoProgram 0x10E) := by decide +kernel
/-- The same of the CPU's own instructions, where the setting names them (D6; log 44). -/
theorem test_store_into_cpu_program :
    refusal? (step { machine 0x03FF [] with
      conf := { Settings.recommended with program := [⟨0x2001, 4⟩] }
      inbox := [.insn (event [0xD9, 0x3E, 0x00, 0x20])] }) = some (.storeIntoProgram 0x2001) := by decide +kernel
/-- The segment-override byte in front of the escape byte (R124, R127): ES:BX. -/
theorem test_segment_override :
    shows (step { State.reset with
      mem := State.reset.mem.writeLE 0x12010 4 0x40200000
      inbox := [.insn { event [0x26, 0xD9, 0x07] with cpu := { CpuRegs.zero with es := 0x1200, bx := 0x0010 } }] } |> fun
        | .next t => some t
        | _ => none) fun t => leaves t [0x4000A000000000000000] 0 && t.dptr = 0x12010 && t.opc = 0x107 := by decide +kernel
/-- The CPU writes into the operand of a running FST: the byte is there, and races (R96, U20; log 13). -/
theorem test_race :
    shows (match step { machine 0x03FF [0x4000A000000000000000] with
        neu := some ⟨.fstM32 operand, State.reset.port, []⟩, inbox := [.cpuWrite 0x2003 0x55, .neuDone] } with
      | .next t => some t
      | _ => none) fun t => t.neu = some ⟨.fstM32 operand, State.reset.port, [0x2003]⟩ && t.mem.read 0x2003 = 0x55 := by
  decide +kernel
/-- WAIT is the only fence: FNCLEX leaves in transit what an overlapped FNSTCW stores, FWAIT does not (R99). -/
theorem test_only_wait_fences :
    (match step { machine 0x03FF [] with inbox := [
        .insn { event [0xD9, 0x3E, 0x00, 0x20] with overlap := true, wait := false },
        .insn { event [0xDB, 0xE2] with wait := false, ia := 0x00112 }, .insn { event [0x9B] with ia := 0x00114 }] } with
      | .next t => t.storing = [⟨0x2000, 0, 0xFF⟩, ⟨0x2001, 0, 0x03⟩] && (match step t with
        | .next u => u.storing = t.storing && shows (match step u with | .next v => some v | _ => none) fun v =>
            v.storing = [] && stored v [0xFF, 0x03]
        | _ => false)
      | _ => false) = true := by decide +kernel
/-- FNINIT while the CU stores 3FFH over 5577H: each byte is the old or the new one, and can be undone no more
(R106, U7; log 14). -/
theorem test_fninit_aborts_cu_store :
    let s := { machine 0x03FF [] [0xFF, 0x03] with storing := [⟨0x2000, 0x77, 0xFF⟩, ⟨0x2001, 0x55, 0x03⟩] }
    let t := s.abort
    (t.mem.read 0x2000 = 0xFF ∨ t.mem.read 0x2000 = 0x77) ∧ (t.mem.read 0x2001 = 0x03 ∨ t.mem.read 0x2001 = 0x55) ∧
      t.storing = [⟨0x2000, t.mem.read 0x2000, 0xFF⟩, ⟨0x2001, t.mem.read 0x2001, 0x03⟩] := by
  intro s t
  have h : ∀ b c : Bool,
      let m := if b then s.mem.write 0x2000 0x77 else s.mem
      let n := if c then m.write 0x2001 0x55 else m
      (n.read 0x2000 = 0xFF ∨ n.read 0x2000 = 0x77) ∧ (n.read 0x2001 = 0x03 ∨ n.read 0x2001 = 0x55) := by
    decide +kernel
  exact ⟨(h (Config.freeWritten 0 1) (Config.freeWritten 0 0)).1, (h (Config.freeWritten 0 1) (Config.freeWritten 0 0)).2, rfl⟩
/-- Two CPU writes against a store of the CU in transit, and one after FNINIT has cut it short: the last byte
written stays or the CU's overwrites it; no earlier one comes back (R96; log 13). -/
theorem test_cpu_writes_in_transit :
    let s := { machine 0x03FF [] [0xFF, 0x03] with storing := [⟨0x2001, 0x77, 0x03⟩] }
    (let t := (s.cpuWrite 0x2001 0x55).cpuWrite 0x2001 0x66
     t.mem.read 0x2001 = 0x66 ∨ t.mem.read 0x2001 = 0x03) ∧
    let t := s.abort.cpuWrite 0x2001 0x66
    t.mem.read 0x2001 = 0x66 ∨ t.mem.read 0x2001 = 0x03 := by
  intro s
  have h : ∀ m : Memory, m = s.mem ∨ m = s.mem.write 0x2001 0x55 ∨ m = s.mem.write 0x2001 0x77 ∨
      m = (s.mem.write 0x2001 0x55).write 0x2001 0x03 → ∀ b : Bool,
      let n := if b then (m.write 0x2001 0x66).write 0x2001 0x03 else m.write 0x2001 0x66
      n.read 0x2001 = 0x66 ∨ n.read 0x2001 = 0x03 := by
    rintro m (rfl | rfl | rfl | rfl) <;> decide +kernel
  refine ⟨h (if Config.freeWritten 0 0 then _ else _) ?_ (Config.freeWritten 1 0),
    h (if Config.freeWritten 0 0 then _ else _) ?_ (Config.freeWritten 1 0)⟩ <;>
    cases Config.freeWritten 0 0 <;> simp
/-- A tiny result below 2^-16382, U unmasked: exponent -16383 + 24576 (R203, R384); an approximation one off stays. -/
theorem test_adjusted_tiny :
    adjustedTiny (-16383) 0 = 0x60008000000000000000 ∧
    adjustedTiny (-16383) 0x5FFFC000000000000000 = 0x5FFFC000000000000000 ∧
    patanExponent 0x00018000000000000000 0x40008000000000000000 = -16384 := by decide
/-- An instruction without a WAIT while an exception is pending: `refuse`, and as its wait form (R472, D24). -/
theorem test_nowait_race :
    refusal? (step { machine 0x033E [] with pending := true, inbox := [.insn { event [0xD9, 0xE8] with wait := false }] }) =
      some .nowaitRace ∧
    fault? (step { machine 0x033E [] with
      pending := true
      conf := { Settings.recommended with nowaitRace := .asWaitForm }
      inbox := [.insn { event [0xD9, 0xE8] with wait := false }] }) = some .endlessWait := by decide +kernel
/-- FIST and FSCALE by an unnormal, D unmasked: D and nothing else (R227; log 23). -/
theorem test_unnormal_signals_d :
    (shows (run [0xDF, 0x16, 0x00, 0x20] (machine 0x03FD [0x40004000000000000000] [0x55])) fun t =>
      stored t [0x55] && t.sw.ex = .onlyD && t.pending) ∧
    (shows (run [0xD9, 0xFD] (machine 0x03FD [0x3FFF8000000000000000, 0x40004000000000000000])) fun t =>
      t.st 0 = oneReal && t.sw.ex = .onlyD && t.pending) := by decide +kernel
/-- FSCALE of a denormal by a NAN, D unmasked: I and D, and nothing else (R227, R489; logs 23, 27). -/
theorem test_scale_nan_denormal :
    shows (run [0xD9, 0xFD] (machine 0x03FD [1, 0xFFFFC000000000000000])) fun t =>
      t.st 0 = 1 && t.sw.ex.toBits = 0x03 && t.pending := by decide +kernel
/-- Products at the ends of the range: the largest finite number by 1, and 2^-100 by 2^-16282 times ln 2, whose product
is just above 2^-16382 (R380, R381, R386, R387; log 35). -/
theorem test_product_in_range :
    yl2xVerdict 0x7FFEFFFFFFFFFFFFFFFF 0x40008000000000000000 = .inside ∧
    yl2xp1Verdict 0x0064B17217F7D1CF79AC 0x3F9B8000000000000000 = .inside := by decide +kernel
/-- Under `release` BUSY is free while IEM is 1, and the exception holds it once FENI clears IEM (D10; log 17). -/
theorem test_release :
    shows (run [0xD8, 0xF1] { machine 0x03FB [0x3FFF8000000000000000, 0] with
        conf := { Settings.recommended with busyWhenIem := .release true } }) fun t =>
      !t.pending && t.sw.ir && !t.sw.busy && !t.intLine && (match exec .feni t with
        | .next u => u.pending && u.sw.ir && u.sw.busy && u.intLine && u.interruptRequest = some 16
        | _ => false) := by decide +kernel
/-- The reserved bits that FLDCW and FLDENV load, under `stored` (D12; log 16). -/
theorem test_reserved_bits_stored :
    (shows (run [0xD9, 0x2E, 0x00, 0x20] { machine 0x03FF [] [0x7F, 0xA3] with
      conf := { Settings.recommended with cwReserved := .stored } }) fun t => t.cw.toBits = 0xA37F) ∧
    (shows (run [0xD9, 0x26, 0x00, 0x20] { machine 0x03FF [] [0xBF, 0x43] with
      conf := { Settings.recommended with cwReserved := .stored } }) fun t => t.cw.toBits = 0x43BF) := by decide +kernel
/-- FSTCW and FENI record no pointers, unless a setting puts them into `ptr_update_set` (D13; log 18). -/
theorem test_pointer_set :
    (shows (run [0xD9, 0x3E, 0x00, 0x20] (machine 0x03FF [])) fun t => t.iptr = 0 && t.opc = 0 && t.dptr = 0) ∧
    (shows (run [0xD9, 0x3E, 0x00, 0x20] { machine 0x03FF [] with
      conf := { Settings.recommended with ptrKeep := [] } }) fun t =>
        t.iptr = 0x0010F && t.opc = 0x13E && t.dptr = 0x02000) ∧
    (shows (run [0xDB, 0xE0] { machine 0x03FF [] with conf := { Settings.recommended with ptrKeep := [] } })
      fun t => t.iptr = 0x0010F && t.opc = 0x3E0 && t.dptr = 0) := by decide +kernel
/-- An alias records pointers where the instruction that it stands for does: of FCLEX not, of FLD1 (logs 18, 20). -/
theorem test_alias_pointers :
    (shows (run [0xD9, 0xD1] { machine 0x03FF [] with
      conf := { Settings.recommended with reserved := .aliased [(0x1D1, 0x3E2)] } }) fun t => t.iptr = 0) ∧
    (shows (run [0xD9, 0xD1] { machine 0x03FF [] with
      conf := { Settings.recommended with reserved := .aliased [(0x1D1, 0x1E8)] } })
      fun t => t.iptr = 0x0010F && t.opc = 0x1D1) := by decide +kernel
/-- What the NEU completes leaves the pointers that an instruction of the CU has recorded meanwhile (log 18). -/
theorem test_pointers_of_the_later :
    shows (match step { machine 0x03FF [] with
        iptr := 0x12345
        neu := some ⟨.fld1, ⟨0x0010F, 0x1E8, none, .zero⟩, []⟩
        inbox := [.neuDone] } with
      | .next t => some t
      | _ => none) fun t => t.iptr = 0x12345 && t.st 0 = oneReal := by decide +kernel

/-- The words of the opcode table, the escape byte in their high half. -/
theorem test_table_word : decodeTableWord 16 0xD8C1 = some (.faddSt 1) ∧
    decodeTableWord 16 0xD906 = some (.fldM32 (.direct 0)) ∧ decodeTableWord 8 0x9B = some .fwait := by decide +kernel
/-- A step from reset runs the word placed there. -/
theorem test_fetch_word :
    (match step (State.reset.withFetchWord 16 0xD9E8) with | .next t => leaves t [0x3FFF8000000000000000] 0 | _ => false)
      = true := by decide +kernel
theorem test_reset_memory : State.reset.mem.wf = true := by decide

/-! ### A state and operands for every statement with hypotheses

Where a statement has several clauses, each of them is met, at a boundary of its range where it has one. -/

/-- An idle NDP in which nothing is wrong. -/
theorem idle_inv {s : State} (hm : s.mem.wf = true) (hp : s.pending = s.conf.held s.cw.iem (s.sw.ex.unmasked s.cw.masks))
    (hr : s.sw.ir = s.conf.request s.cw.iem (s.sw.ex.unmasked s.cw.masks)) (hb : s.sw.busy = s.busyLine)
    (hn : s.neu = none) (hq : s.queued = none) (hc : s.conf.wf = true) : s.Inv :=
  ⟨hm, hp, hr, hb, by simp [hn], by simp [hq], by simp [hq], hc⟩

/-- The operand fits, by the test that the machine makes. -/
theorem fits {s : State} {m : MemOp} {n : Nat} (h : s.operandStop m n = none) : s.Fits m n :=
  (s.operandStop_eq_none m n).mp h
/-- The operand is writable, by the test that the machine makes. -/
theorem writable {s : State} {m : MemOp} {n : Nat} (h : (addresses (s.ea m).toNat n).find? s.isProgram = none) :
    s.Writable m n := (s.program_eq_none m n).mp h
/-- The operand does not fit, by the same test. -/
theorem unfit {s : State} {m : MemOp} {n : Nat} (h : s.operandStop m n ≠ none) : ¬ s.Fits m n :=
  fun k => h ((s.operandStop_eq_none m n).mpr k)

/-- 2.5 on the stack. -/
def one : State := machine 0x03FF [0x4000A000000000000000]
/-- 7 and 3 on the stack, 3 as a short real at 2000H. -/
def two : State := machine 0x03FF [0x4001E000000000000000, 0x4000C000000000000000] [0, 0, 0x40, 0x40]
/-- The FDIV of P3 with Z unmasked. -/
def byZero : State := machine 0x03FB [0x3FFF8000000000000000, 0]
/-- The largest finite number on the stack, O unmasked. -/
def huge : State := machine 0x03F7 [0x7FFEFFFFFFFFFFFFFFFF]
/-- The indefinite over 1 on the stack, I unmasked. -/
def notANumber : State := machine 0x03FE [0xFFFFC000000000000000, 0x3FFF8000000000000000]
/-- A denormal over 1 on the stack, and a denormal at 2000H; D unmasked. -/
def tiny : State := machine 0x03FD [1, 0x3FFF8000000000000000] [1]
/-- Eight registers that are not empty. -/
def full : State := machine 0x03FF (List.replicate 8 0x3FFF8000000000000000)
/-- `busy_when_iem` = release, with IR shown. -/
def releasing (s : State) : State := { s with conf := { s.conf with busyWhenIem := .release true } }
/-- Only the first 2000H bytes are allocated. -/
def small (s : State) : State := { s with conf := { s.conf with ram := [⟨0, 0x2000⟩] } }
/-- The bytes of the operand are program. -/
def inProgram (s : State) : State := { s with code := [⟨0x2001, 1⟩] }

/-- The same bytes belong to the CPU's own instructions. -/
def ownProgram (s : State) : State := { s with conf := { s.conf with program := [⟨0x2001, 1⟩] } }

theorem one_inv : one.Inv := idle_inv (by decide) rfl rfl rfl rfl rfl rfl
theorem two_inv : two.Inv := idle_inv (by decide) rfl rfl rfl rfl rfl rfl
theorem reset_inv : State.reset.Inv := idle_inv rfl rfl rfl rfl rfl rfl rfl

/-- A store and a load of a short real at 2000H run. -/
theorem fst_runs (s : State) (h : s.Fits operand 4) (hw : s.Writable operand 4) : exec (.fstM32 operand) s =
    .next ((s.begin (some (s.ea operand).toNat)).storeBits (s.ea operand).toNat 4 (s.storedReal .short) false) := by
  change execFstM32 operand s = _
  unfold execFstM32 State.storeOperand
  exact State.withDestination_fits _ _ _ _ _ h fun _ => hw
theorem fld_runs (s : State) (h : s.Fits operand 4) : exec (.fldM32 operand) s =
    .next ((s.begin (some (s.ea operand).toNat)).loadReal .short (s.ea operand).toNat) := by
  change execFldM32 operand s = _
  exact State.withOperand_fits _ _ _ _ h

theorem fstcw_runs (s : State) (h : s.Fits operand 2) (hw : s.Writable operand 2) : exec (.fstcw operand) s =
    .next ((s.begin (some (s.ea operand).toNat)).store (s.ea operand).toNat 2 s.cw.toBits.toNat) := by
  change execFstcw operand s = _
  unfold execFstcw
  exact State.withDestination_fits _ _ _ _ _ h fun _ => hw

/-- A job of the NEU. -/
def job : Job := ⟨.fsqrt, State.reset.port, []⟩
/-- A running store of the top to 2000H. -/
def storingJob : Job := ⟨.fstM32 operand, State.reset.port, []⟩
/-- The same, after the CPU has written its second byte. -/
def racedJob : Job := { storingJob with raced := [0x2001] }
/-- A running load, after the CPU has written the first byte of its operand. -/
def racedLoad : Job := ⟨.fldM32 operand, State.reset.port, [0x2000]⟩
/-- A queued FNSAVE. -/
def saving : Job := ⟨.fsave operand, State.reset.port, []⟩
/-- The NEU runs this. -/
def running (j : Job) (s : State) : State := { s with neu := some j, sw := { s.sw with busy := true } }
/-- The next action of the outside world. -/
def facing (x : Input) (s : State) : State := { s with inbox := [x] }
/-- The CU may still be storing 3 in the byte at 2001H, which held 77H. -/
def inFlight (s : State) : State := { s with storing := [⟨0x2001, 0x77, 0x03⟩] }
/-- `nowait_race` in its other setting. -/
def waiting (s : State) : State := { s with conf := { s.conf with nowaitRace := .asWaitForm } }
/-- The event without its WAIT. -/
def noWait (bytes : List Nat) : Event := { event bytes with wait := false }
/-- The event, overlapped. -/
def overlapped (e : Event) : Event := { e with overlap := true }

theorem running_inv (s : State) (j : Job) (h : s.Inv) (hj : (executorOf j.instr).onNeu = true) :
    (running j s).Inv :=
  ⟨h.memory, h.pending, h.request, by simp [running, State.busyLine],
    fun k hk => by obtain rfl := Option.some.inj hk; exact hj, h.waiting, fun _ => rfl, h.settings⟩
theorem facing_inv (s : State) (x : Input) (h : s.Inv) : (facing x s).Inv :=
  ⟨h.memory, h.pending, h.request, h.busy, h.running, h.waiting, h.queued, h.settings⟩

theorem inFlight_inv : (inFlight two).Inv := idle_inv (by decide) rfl rfl rfl rfl rfl rfl

theorem witness_DecodeOfEncode : (Instr.fldM32 (.disp8 .bp 0xFF)).wf = true ∧ (Instr.reservedR 1 7 7).wf = true ∧
    Instr.fwait.wf = true := by decide
theorem witness_EncodeOfDecode : decode [0xD9, 0x46, 0x00, 0x90] = .ok (.fldM32 (.disp8 .bp 0), [0x90]) ∧
    decodeFull [0x36, 0xD9, 0x46, 0x00, 0x90] = .ok (some .ss, .fldM32 (.disp8 .bp 0), [0x90]) := by decide

/-- D9 D1 as a no-operation, refused, and as an alias of FLD1; and a reserved opcode with an operand as the
second alias of two, overlapped, of FNSTCW. -/
theorem witness_ReservedOpcodesDoNothing :
    (∀ r ∈ [ReservedOpcode.nop, .refuse, .aliased [(0x1D2, 0x1E8)]], ∃ s : State,
      s.inbox = [.insn (event [0xD9, 0xD1])] ∧ decodeFull (event [0xD9, 0xD1]).bytes = .ok (none, .reservedR 1 2 1, []) ∧
      s.neu = none ∧ s.queued = none ∧ s.pending = false ∧ s.conf.reserved = r) ∧
    opcode11 (encode (.reservedR 1 2 1)) = 0x1D1 ∧
    (∃ s : State, s.inbox = [.insn (event [0xD9, 0xD1])] ∧ s.neu = none ∧ s.queued = none ∧ s.pending = false ∧
      s.conf.reserved = .aliased ([(0x1D2, 0x1EE)] ++ (opcode11 (encode (.reservedR 1 2 1)), 0x1E8) :: [(0x1D1, 0x1EE)]) ∧
      ∀ x ∈ [((0x1D2, 0x1EE) : BitVec 11 × BitVec 11)], x.1 ≠ opcode11 (encode (.reservedR 1 2 1))) ∧
    ∃ (s t : State) (e : Event) (i : Instr), i = .reservedM 1 1 operand ∧ s.inbox = [.insn e] ∧
      decodeFull e.bytes = .ok (none, i, []) ∧ s.neu = none ∧ s.queued = none ∧ s.pending = false ∧
      s.conf.reserved = .aliased ([(0x1D1, 0x1E8)] ++ (opcode11 (encode i), 0x13E) :: []) ∧
      decodeMemForm ((0x13E : BitVec 11).extractLsb' 8 3) ((0x13E : BitVec 11).extractLsb' 3 3) operand = .fstcw operand ∧
      isStore (.fstcw operand) = true ∧ (executorOf (.fstcw operand)).onNeu = false ∧ e.overlap = true ∧
      exec (.fstcw operand) (s.present e []) = .next t :=
  ⟨fun r _ => ⟨facing (.insn (event [0xD9, 0xD1])) { two with conf := { two.conf with reserved := r } }, rfl, by decide, rfl, rfl,
      rfl, rfl⟩, by decide,
   ⟨facing (.insn (event [0xD9, 0xD1])) { two with conf := { two.conf with
      reserved := .aliased ([(0x1D2, 0x1EE)] ++ (0x1D1, 0x1E8) :: [(0x1D1, 0x1EE)]) } }, rfl, rfl, rfl, rfl, rfl,
    fun x hx => by obtain rfl := List.mem_singleton.mp hx; decide⟩,
   facing (.insn (overlapped (event [0xD9, 0x0E, 0, 0x20]))) { two with conf := { two.conf with
      reserved := .aliased [(0x1D1, 0x1E8), (0x10E, 0x13E)] } }, _, _, _, rfl, rfl, by decide, rfl, rfl, rfl, by decide, by decide,
   rfl, by decide, rfl, fstcw_runs _ (fits (by decide +kernel)) (writable (by decide +kernel))⟩
theorem witness_OperandAddressTable : (0 : BitVec 3) ≠ 6 ∧ (5 : BitVec 3) ≠ 6 ∧ (7 : BitVec 3) ≠ 6 ∧
    (event [0x3E, 0xD9, 0x07]).bytes = 0x3E :: [0xD9, 0x07] ∧ (event [0xD9, 0x07]).bytes = 0xD9 :: [0x07] := by decide

/-- FADD, an overlapped FNSTCW with a segment override, FINIT, and FNINIT while a byte is in transit. -/
theorem witness_StepRunsDecodedInstruction :
    (∃ (s : State) (e : Event) (i : Instr), s.inbox = [.insn e] ∧ decodeFull e.bytes = .ok (none, i, []) ∧ s.neu = none ∧
      s.queued = none ∧ s.pending = false ∧ e.overlap = false ∧ s.conf.resolve i = some i ∧ i ≠ .finit ∧
      (∀ a b m, i ≠ .reservedM a b m) ∧ ∀ a b r, i ≠ .reservedR a b r) ∧
    (∃ (s t : State) (e : Event) (i : Instr), s.inbox = [.insn e] ∧ decodeFull e.bytes = .ok (some .es, i, []) ∧ s.neu = none ∧
      s.queued = none ∧ s.pending = false ∧ e.overlap = true ∧ s.conf.resolve i = some (.fstcw operand) ∧
      exec (.fstcw operand) (s.present e []) = .next t) ∧
    (∃ (s : State) (e : Event), s.inbox = [.insn e] ∧ decodeFull e.bytes = .ok (none, .finit, []) ∧ s.neu = none ∧
      s.queued = none ∧ s.pending = false ∧ s.conf.resolve .finit = some .finit ∧ e.wait = true) ∧
    ∃ (s : State) (e : Event), s.inbox = [.insn e] ∧ decodeFull e.bytes = .ok (none, .finit, []) ∧ s.neu = none ∧
      s.queued = none ∧ s.pending = false ∧ e.wait = false ∧ s.storing ≠ [] :=
  ⟨⟨facing (.insn (event [0xD8, 0xC1])) two, _, .faddSt 1, rfl, by decide, rfl, rfl, rfl, rfl, by decide, nofun, nofun, nofun⟩,
   ⟨facing (.insn (overlapped (event [0x26, 0xD9, 0x3E, 0, 0x20]))) two, _, _, .fstcw operand, rfl, by decide, rfl, rfl, rfl, rfl,
    by decide, fstcw_runs _ (fits (by decide +kernel)) (writable (by decide +kernel))⟩,
   ⟨facing (.insn (event [0xDB, 0xE3])) two, _, rfl, by decide, rfl, rfl, rfl, by decide, rfl⟩,
   ⟨facing (.insn (noWait [0xDB, 0xE3])) (inFlight two), _, rfl, by decide, rfl, rfl, rfl, rfl, nofun⟩⟩

theorem witness_WaitHoldsTheCpu :
    (∃ (s : State) (e : Event) (i : Instr) (j : Job), s.inbox = [.insn e] ∧ decodeFull e.bytes = .ok (none, i, []) ∧ e.wait = true ∧
      s.conf.resolve i = some i ∧ s.neu = some j) ∧
    (∃ (s : State) (e : Event), s.inbox = [.insn e] ∧ decodeFull e.bytes = .ok (none, .fwait, []) ∧
      s.conf.resolve .fwait = some .fwait ∧ s.neu = none ∧ s.pending = true) ∧
    (∃ (s : State) (e : Event) (i : Instr), s.inbox = [.insn e] ∧ decodeFull e.bytes = .ok (none, i, []) ∧ e.wait = true ∧
      s.conf.resolve i = some i ∧ s.neu = none ∧ s.pending = false ∧ s.storing ≠ []) ∧
    ∃ (s : State) (e : Event) (i : Instr), s.inbox = [.insn e] ∧ decodeFull e.bytes = .ok (none, i, []) ∧ e.wait = false ∧
      i ≠ .fwait ∧ s.conf.resolve i = some i ∧ s.storing ≠ [] :=
  ⟨⟨facing (.insn (event [0xD8, 0xC1])) (running job two), _, .faddSt 1, job, rfl, by decide, rfl, by decide, rfl⟩,
   ⟨facing (.insn (noWait [0x9B])) { two with pending := true }, _, rfl, by decide, by decide, rfl, rfl⟩,
   ⟨facing (.insn (event [0xD8, 0xC1])) (inFlight two), _, .faddSt 1, rfl, by decide, rfl, by decide, rfl, rfl, nofun⟩,
   ⟨facing (.insn (noWait [0xDB, 0xE2])) (inFlight two), _, .fclex, rfl, by decide, rfl, nofun, by decide, nofun⟩⟩

theorem witness_OverlappedInstructionIsSequential : ∃ (s u : State) (e : Event),
    s.inbox = [.insn { e with overlap := true }, .neuDone] ∧ decodeFull e.bytes = .ok (none, .fld1, []) ∧
    s.conf.resolve .fld1 = some .fld1 ∧ (executorOf .fld1).onNeu = true ∧ s.neu = none ∧ s.queued = none ∧ s.pending = false ∧
    step { s with inbox := [.insn { e with overlap := false }] } = .next u :=
  ⟨{ two with inbox := [.insn { event [0xD9, 0xE8] with overlap := true }, .neuDone] }, _, event [0xD9, 0xE8], rfl,
    by decide, by decide, by decide, rfl, rfl, rfl, rfl⟩

/-- FADD without a WAIT in both settings, busy and idle; FNSAVE queued; a second one; FNCLEX. -/
theorem witness_NoWaitFormsWhileBusy :
    (executorOf (.faddSt 1) ≠ .control ∧ executorOf (.faddSt 1) ≠ .queued) ∧
    (∀ s ∈ [two, { two with pending := true }, waiting { two with pending := true }, waiting (running job two)],
      let t := facing (.insn (noWait [0xD8, 0xC1])) s
      t.inbox = [.insn (noWait [0xD8, 0xC1])] ∧
      decodeFull (noWait [0xD8, 0xC1]).bytes = .ok (none, .faddSt 1, []) ∧ t.conf.resolve (.faddSt 1) = some (.faddSt 1)) ∧
    (two.busyLine = false ∧ ({ two with pending := true } : State).busyLine = true ∧ two.conf.nowaitRace = .refuse) ∧
    ((waiting two).conf.nowaitRace = .asWaitForm ∧ (waiting (running job two)).neu = some job ∧
      (waiting { two with pending := true }).pending = true) ∧
    (∃ (s : State) (e : Event) (m : MemOp) (j : Job), s.inbox = [.insn e] ∧ decodeFull e.bytes = .ok (none, .fsave m, []) ∧
      e.wait = false ∧ s.conf.resolve (.fsave m) = some (.fsave m) ∧ s.neu = some j ∧ s.queued = none ∧
      (s.present e []).Fits m 94 ∧ (s.present e []).Writable m 94) ∧
    (∃ (s : State) (e : Event) (m : MemOp), s.inbox = [.insn e] ∧ decodeFull e.bytes = .ok (none, .fstsw m, []) ∧ e.wait = false ∧
      s.conf.resolve (.fstsw m) = some (.fstsw m) ∧ s.neu.isSome = true ∧ s.queued.isSome = true) ∧
    (∃ (s : State) (e : Event), s.inbox = [.insn e] ∧ decodeFull e.bytes = .ok (none, .fclex, []) ∧ e.wait = false ∧
      s.conf.resolve .fclex = some .fclex ∧ s.neu = none ∧ s.queued = none ∧ s.pending = true ∧ e.overlap = false ∧
      executorOf .fclex = .control) := by
  refine ⟨by decide, fun s _ => ⟨rfl, by decide, rfl⟩, ⟨by decide, by decide, rfl⟩, ⟨rfl, rfl, rfl⟩,
    ⟨facing (.insn (noWait [0xDD, 0x36, 0, 0x20])) (running job two), _, operand, job, rfl, by decide, rfl, by decide, rfl, rfl,
      fits (by decide +kernel), writable (by decide +kernel)⟩,
    ⟨facing (.insn (noWait [0xDD, 0x3E, 0, 0x20])) { running job two with queued := some saving }, _, operand, rfl, by decide, rfl,
      by decide, rfl, rfl⟩,
    ⟨facing (.insn (noWait [0xDB, 0xE2])) { two with pending := true }, _, rfl, by decide, rfl, by decide, rfl, rfl, rfl, rfl,
      by decide⟩⟩

/-- FNENI, FNINIT, and FNSTSW into the operand of the running store; a queued FNSAVE at the completion. -/
theorem witness_ControlUnitWhileTheNeuRuns :
    (∃ (s : State) (e : Event), s.Inv ∧ s.inbox = [.insn e] ∧ decodeFull e.bytes = .ok (none, .feni, []) ∧ e.wait = false ∧
      s.neu = some job) ∧
    (∃ (s : State) (e : Event), s.Inv ∧ s.inbox = [.insn e] ∧ decodeFull e.bytes = .ok (none, .fstsw operand, []) ∧ e.wait = false ∧
      s.neu = some storingJob ∧ s.queued = none ∧ (s.present e []).Fits operand 2 ∧ (s.present e []).Writable operand 2 ∧
      0x2001 ∈ storingJob.addresses) ∧
    (∃ (s : State) (e : Event), s.Inv ∧ s.inbox = [.insn e] ∧ decodeFull e.bytes = .ok (none, .finit, []) ∧ e.wait = false ∧
      s.neu = some storingJob ∧ s.storing ≠ [] ∧ storingJob.addresses = [0x2000, 0x2001, 0x2002, 0x2003]) ∧
    (∃ s t : State, s.Inv ∧ s.inbox = [.neuDone] ∧ s.neu = some job ∧ s.queued = some saving ∧ job.hit = [] ∧ saving.hit = [] ∧
      exec job.instr { s with inbox := [], neu := none, port := job.port } = .next t ∧
      ({ t with queued := none, port := saving.port } : State).Fits operand 94 ∧
      ({ t with queued := none, port := saving.port } : State).Writable operand 94) :=
  ⟨⟨facing (.insn (noWait [0xDB, 0xE0])) (running job two), _, facing_inv _ _ (running_inv _ _ two_inv rfl), rfl, by decide,
      rfl, rfl⟩,
   ⟨facing (.insn (noWait [0xDD, 0x3E, 0, 0x20])) (running storingJob two), _,
      facing_inv _ _ (running_inv _ _ two_inv rfl), rfl, by decide, rfl, rfl, rfl, fits (by decide +kernel),
      writable (by decide +kernel), by decide⟩,
   ⟨facing (.insn (noWait [0xDB, 0xE3])) (running storingJob (inFlight two)), _,
      facing_inv _ _ (running_inv _ _ inFlight_inv rfl), rfl, by decide, rfl, rfl, nofun, by decide⟩,
   ⟨{ running job two with queued := some saving, inbox := [.neuDone] }, _,
      { running_inv _ _ two_inv rfl with
        waiting := fun k hk => by obtain rfl := Option.some.inj hk; rfl
        queued := fun _ => rfl }, rfl, rfl, rfl, by decide, by decide, rfl,
      fits (by decide +kernel), writable (by decide +kernel)⟩⟩

/-- A read of a settled byte and of one that is being stored, or is not allocated; writes beside, into and
against the program and the allocated memory; completions with and without a race; the interrupt. -/
theorem witness_CpuAccessesAndInterrupt :
    (∃ s : State, s.inbox = [.cpuRead 0x2004] ∧ s.allocated 0x2004 = true ∧ (∀ c ∈ s.storing, c.addr.toNat ≠ 0x2004) ∧
      (∀ j, s.neu = some j ∨ s.queued = some j → isStore j.instr = true → 0x2004 ∉ j.addresses) ∧
      s.unsettled 0x2003 = true ∧ s.unsettled 0x2001 = true ∧ (small two).allocated 0x2000 = false) ∧
    (∃ s : State, s.Inv ∧ s.inbox = [.cpuWrite 0x2003 0x55] ∧ s.allocated 0x2003 = true ∧ s.isProgram 0x2003 = false ∧
      s.neu = some storingJob ∧ 0x2003 ∈ storingJob.addresses ∧ storingJob.addresses.contains 0x2004 = false ∧
      (inProgram two).isProgram 0x2001 = true ∧ (inProgram two).allocated 0x2001 = true ∧
      (ownProgram two).isProgram 0x2001 = true ∧ (ownProgram two).code = [] ∧
      (∃ c ∈ s.storing, c.addr.toNat ≠ 0x2003) ∧ ∃ c ∈ (inFlight two).storing, c.addr.toNat = 0x2001) ∧
    (∃ s t : State, s.Inv ∧ s.inbox = [.neuDone] ∧ s.neu = some racedJob ∧ s.queued = none ∧
      exec racedJob.instr { s with inbox := [], neu := none, port := racedJob.port } = .next t ∧ isStore racedJob.instr = true) ∧
    (∃ s t : State, s.Inv ∧ s.inbox = [.neuDone] ∧ s.neu = some racedLoad ∧ s.queued = none ∧
      exec racedLoad.instr { s with inbox := [], neu := none, port := racedLoad.port } = .next t ∧
      isStore racedLoad.instr = false) ∧
    (∀ x ∈ storingJob.raced, x ∉ storingJob.addresses) ∧
    (∃ s : State, s.inbox = [.takeInterrupt] ∧ s.sw.ir = true ∧ s.cw.iem = false) ∧
    (∃ s : State, s.inbox = [.takeInterrupt] ∧ s.sw.ir = false) :=
  ⟨⟨facing (.cpuRead 0x2004) (running storingJob (inFlight two)), rfl, by decide +kernel,
      fun c hc => by obtain rfl := List.mem_singleton.mp hc; decide,
      fun j h => by rcases h with h | h <;> cases h; exact fun _ => by decide, by decide +kernel, by decide +kernel,
      by decide +kernel⟩,
   ⟨facing (.cpuWrite 0x2003 0x55) (running storingJob (inFlight two)), facing_inv _ _ (running_inv _ _ inFlight_inv rfl), rfl,
      by decide +kernel, by decide +kernel, rfl, by decide, by decide, by decide +kernel, by decide +kernel, by decide +kernel, rfl,
      by decide, by decide⟩,
   ⟨facing .neuDone (running racedJob two),
      _, facing_inv _ _ (running_inv _ _ two_inv rfl), rfl, rfl, rfl,
      fst_runs { running racedJob two with neu := none } (fits (by decide +kernel)) (writable (by decide +kernel)), rfl⟩,
   ⟨facing .neuDone (running racedLoad two), _, facing_inv _ _ (running_inv _ _ two_inv rfl), rfl, rfl, rfl,
      fld_runs { running racedLoad two with neu := none } (fits (by decide +kernel)), rfl⟩,
   nofun, ⟨facing .takeInterrupt { two with sw := { two.sw with ir := true }, cw := { two.cw with iem := false } }, rfl, rfl, rfl⟩,
   ⟨facing .takeInterrupt two, rfl, rfl⟩⟩

/-- A step that changes registers from a state with the invariant. -/
theorem witness_StepKeepsInvariant : ∃ s t : State, s.Inv ∧ step s = .next t :=
  ⟨facing (.insn (event [0xD9, 0xE8])) two, _, facing_inv _ _ two_inv, rfl⟩
/-- RESET with an exception pending, with nothing and with a byte in transit, and while a store runs. -/
theorem witness_ResetValues : (∃ s : State, s.inbox = [.reset] ∧ s.neu = none ∧ s.pending = true ∧ s.storing = []) ∧
    (∃ s : State, s.inbox = [.reset] ∧ s.neu = none ∧ s.storing ≠ [] ∧ s.mem.wf = true) ∧
    ∃ s u : State, s.inbox = [.reset] ∧ s.neu = some storingJob ∧ isStore storingJob.instr = true ∧
      0x2000 ∈ storingJob.addresses ∧ s.mem.wf = true ∧
      exec storingJob.instr { s with neu := none, port := storingJob.port } = .next u :=
  ⟨⟨facing .reset { two with pending := true }, rfl, rfl, rfl, rfl⟩, ⟨facing .reset (inFlight two), rfl, rfl, nofun, by decide⟩,
   ⟨facing .reset (running storingJob two), _, rfl, rfl, rfl, by decide, by decide,
     fst_runs { facing .reset (running storingJob two) with neu := none } (fits (by decide +kernel)) (writable (by decide +kernel))⟩⟩

/-- Both settings of `busy_when_iem`, the second with IEM set. -/
theorem witness_NdpReactsAfterEveryInstruction : (∃ t, exec .fld1 one = .next t ∧ t.conf.busyWhenIem = .hold) ∧
    ∃ t, exec .fld1 (releasing one) = .next t ∧ t.conf.busyWhenIem = .release true ∧ t.cw.iem = true :=
  ⟨⟨_, rfl, rfl⟩, ⟨_, rfl, rfl, rfl⟩⟩
theorem witness_InterruptEnableMask : one.conf.busyWhenIem = .hold ∧ (releasing one).conf.busyWhenIem = .release true :=
  ⟨rfl, rfl⟩
theorem witness_FlagAndControlWordWriters : (∃ t, exec (.fdivSt 1) byZero = .next t) ∧ ∃ t, exec (.faddSt 1) two = .next t :=
  ⟨⟨_, rfl⟩, ⟨_, rfl⟩⟩
theorem witness_OnlyTheOperandIsStored :
    (∃ t, one.Inv ∧ exec (.fstM32 operand) one = .next t ∧ (Instr.fstM32 operand).memOp? = some operand) ∧
    (∃ t, one.Inv ∧ exec .fld1 one = .next t ∧ isStore .fld1 = false) ∧
    (0x1FFF < (one.ea operand).toNat ∧ (one.ea operand).toNat + operandBytes (.fstM32 operand) ≤ 0x2004) :=
  ⟨⟨_, one_inv, fst_runs one (fits (by decide +kernel)) (writable (by decide +kernel)), rfl⟩,
    ⟨_, one_inv, rfl, rfl⟩, by decide⟩
/-- FLD1, FCLEX under the recommended set and under every form, FWAIT; FADD, FRSTOR, and an alias of FCLEX. -/
theorem witness_ExceptionPointerWriters :
    (∃ t, exec .fld1 one = .next t ∧ executorOf .fld1 ≠ .nobody ∧ one.recordsPointers = true) ∧
    (∃ s t : State, exec .fclex s = .next t ∧ s.port.op = opcode11 (encode .fclex) ∧ s.recordsPointers = false) ∧
    (∃ s t : State, exec .fclex s = .next t ∧ s.port.op = opcode11 (encode .fclex) ∧ s.recordsPointers = true) ∧
    (∃ t, exec .fwait one = .next t ∧ executorOf .fwait = .nobody) ∧
    (∃ s : State, s.conf.ptrKeep = Settings.recommended.ptrKeep ∧ (Instr.faddSt 1).wf = true ∧
      s.port.op = opcode11 (encode (.faddSt 1)) ∧ s.conf.resolve (.faddSt 1) = some (.faddSt 1) ∧
      executorOf (.faddSt 1) = .neu) ∧
    (∃ s : State, s.conf.ptrKeep = Settings.recommended.ptrKeep ∧ (Instr.frstor operand).wf = true ∧
      s.port.op = opcode11 (encode (.frstor operand)) ∧ s.conf.resolve (.frstor operand) = some (.frstor operand) ∧
      executorOf (.frstor operand) = .loader) ∧
    ∃ s : State, s.conf.ptrKeep = Settings.recommended.ptrKeep ∧ (Instr.reservedR 1 2 1).wf = true ∧
      s.port.op = opcode11 (encode (.reservedR 1 2 1)) ∧ s.conf.resolve (.reservedR 1 2 1) = some .fclex ∧
      executorOf .fclex = .control :=
  ⟨⟨_, rfl, by decide, by decide⟩, ⟨{ one with port := ⟨0, 0x3E2, none, .zero⟩ }, _, rfl, by decide, by decide⟩,
   ⟨{ one with port := ⟨0, 0x3E2, none, .zero⟩, conf := { Settings.recommended with ptrKeep := [] } }, _, rfl, by decide,
    by decide⟩,
   ⟨_, rfl, rfl⟩, ⟨{ one with port := ⟨0, 0x0C1, none, .zero⟩ }, rfl, by decide, by decide, rfl, rfl⟩,
   ⟨{ one with port := ⟨0, 0x526, none, .zero⟩ }, rfl, by decide, by decide, rfl, rfl⟩,
   ⟨{ one with
      port := ⟨0, 0x1D1, none, .zero⟩
      conf := { Settings.recommended with reserved := .aliased [(0x1D1, 0x3E2)] } },
    rfl, by decide, by decide, by decide, rfl⟩⟩
theorem witness_ConditionCodeKeptByControl :
    (∃ t, exec .fnop one = .next t) ∧ (∃ t, exec (.ffree 0) one = .next t) ∧ (∃ t, exec (.fldcw operand) one = .next t) :=
  ⟨⟨_, rfl⟩, ⟨_, rfl⟩, ⟨_, exec_fldcw one operand (fits (by decide +kernel))⟩⟩
theorem witness_UnmaskedExceptionAbandons :
    (∃ t, exec (.fdivSt 1) byZero = .next t ∧ byZero.sw.ex.unmasked byZero.cw.masks = false ∧
      ({ t.sw.ex with o := false, u := false, p := false } : ExcSet).unmasked t.cw.masks = true) ∧
    (∃ t, exec (.fstM32 operand) huge = .next t ∧ huge.sw.ex.unmasked huge.cw.masks = false ∧
      isStore (.fstM32 operand) = true ∧ ({ t.sw.ex with p := false } : ExcSet).unmasked t.cw.masks = true) :=
  ⟨⟨_, rfl, by decide, by decide +kernel⟩,
   ⟨_, fst_runs huge (fits (by decide +kernel)) (writable (by decide +kernel)), by decide, by decide, by decide +kernel⟩⟩
/-- An operand that fits; one past FFFFFH; one outside the allocated memory; one in the program, of a store
that happens and of one that an exception suppresses. -/
theorem witness_EveryInstructionCompletes :
    (∀ m, (Instr.fldM32 operand).memOp? = some m → one.Fits m (operandBytes (.fldM32 operand))) ∧ one.pending = false ∧
    (({ one with port := ⟨0, 0, none, { CpuRegs.zero with ds := 0xFFFF }⟩ } : State).ea (.direct 0x000D)).toNat + 4 = 2 ^ 20 + 1 ∧
    (¬ (small one).Fits operand 4 ∧ ((small one).ea operand).toNat + 4 ≤ 2 ^ 20) ∧
    ((inProgram one).Fits operand 4 ∧ ¬ (inProgram one).Writable operand 4) ∧
    ((inProgram huge).Fits operand 4 ∧ ¬ (inProgram huge).Writable operand 4) := by
  refine ⟨fun m h => ?_, rfl, by decide, ⟨unfit (by decide +kernel), by decide⟩,
    ⟨fits (by decide +kernel), fun h => absurd (h 0x2001 (by decide) (by decide)) (by decide +kernel)⟩,
    ⟨fits (by decide +kernel), fun h => absurd (h 0x2001 (by decide) (by decide)) (by decide +kernel)⟩⟩
  obtain rfl := Option.some.inj h
  exact fits (by decide +kernel)

/-- A push; a zero, the least denormal, an infinity, and the least and the greatest exponent of a number. -/
theorem witness_ConstantsArePushed : (one.pushFull = false ∧ one.Inv) ∧ (expOf 0 = 0 ∧ sigOf 0 = 0) ∧
    (expOf 1 = 0 ∧ 0 < sigOf 1 ∧ sigOf 1 < 2 ^ 63) ∧
    (expOf 0x7FFF8000000000000000 = 0x7FFF ∧ 2 ^ 63 ≤ sigOf 0x7FFF8000000000000000) ∧
    expOf 0x00010000000000000000 = 1 ∧ expOf 0x7FFE8000000000000000 = 0x7FFE :=
  ⟨⟨by decide, one_inv⟩, by decide⟩
/-- A full stack: with I masked and unmasked, and a memory load of a denormal, D masked and unmasked. -/
theorem witness_PushOntoFullRegister : full.pushFull = true ∧ full.isEmpty 0 = false ∧ full.cw.masks.i = true ∧
    ({ full with cw := { full.cw with masks := .none } } : State).pushFull = true ∧ full.Fits operand 4 ∧
    (cvtReal .short 1).d = true ∧ classOf 1 = .denormal :=
  ⟨by decide, by decide, rfl, by decide, fits (by decide +kernel), by decide, by decide⟩
theorem witness_MemoryLoadsArePushed : two.Fits operand 4 ∧ two.pushFull = false ∧
    (cvtReal .short (two.mem.readLE (two.ea operand).toNat 4)).d = false ∧
    ((machine 0x03FD [] [1]).Fits operand 4 ∧ (machine 0x03FD [] [1]).pushFull = false ∧
      (cvtReal .short ((machine 0x03FD [] [1]).mem.readLE 0x2000 4)).d = true ∧ (machine 0x03FD [] [1]).cw.masks.d = false) ∧
    (machine 0x03FF [] [0x26, 0x01]).Fits operand 10 ∧ (machine 0x03FF [] [0x26, 0x01]).pushFull = false ∧
    bcdValid ((machine 0x03FF [] [0x26, 0x01]).mem.readLE 0x2000 10) 18 = true ∧
    bcdValid ((machine 0x03FF [] [0x0A]).mem.readLE 0x2000 10) 18 = false :=
  ⟨fits (by decide +kernel), by decide, by decide +kernel,
    ⟨fits (by decide +kernel), by decide, by decide +kernel, rfl⟩, fits (by decide +kernel), by decide,
    by decide +kernel, by decide +kernel⟩
theorem witness_RegisterTransfers : two.isEmpty 0 = false ∧ two.isEmpty 1 = false ∧ two.pushFull = false ∧
    one.isEmpty 1 = true ∧ one.pushFull = false ∧ State.reset.isEmpty 0 = true := by decide
/-- 2.5; the largest number with O unmasked, also where its operand is program; a NAN with I unmasked. -/
theorem witness_StoresWriteConvertedTop : one.Inv ∧ one.Fits operand 4 ∧ one.Writable operand 4 ∧ one.isEmpty 0 = false ∧
    Proceeds one (toReal one.cw .short (one.num 0)).before ∧
    { (toReal one.cw .short (one.num 0)).after with p := false }.unmasked one.cw.masks = false ∧
    Proceeds one (toBcd one.cw one.draws (one.num 0)).before ∧
    (huge.Inv ∧ (inProgram huge).Fits operand 4 ∧ Proceeds huge (toReal huge.cw .short (huge.num 0)).before ∧
      ({ (toReal huge.cw .short (huge.num 0)).after with p := false } : ExcSet).unmasked huge.cw.masks = true) ∧
    (notANumber.Inv ∧ notANumber.isEmpty 0 = false ∧ notANumber.Fits operand 2 ∧
      ¬ Proceeds notANumber (toInt notANumber.cw .word (notANumber.num 0)).before) :=
  ⟨one_inv, fits (by decide +kernel), writable (by decide +kernel), by decide, by unfold Proceeds; decide +kernel,
    by decide +kernel, by unfold Proceeds; decide +kernel,
    ⟨idle_inv (by decide) rfl rfl rfl rfl rfl rfl, fits (by decide +kernel), by unfold Proceeds; decide +kernel, by decide +kernel⟩,
    ⟨idle_inv (by decide) rfl rfl rfl rfl rfl rfl, by decide, fits (by decide +kernel), by unfold Proceeds; decide +kernel⟩⟩
/-- After reset, with I masked; and with I unmasked. -/
theorem witness_EmptyTopStoresIndefinite : (State.reset.Inv ∧ State.reset.isEmpty 0 = true ∧
    State.reset.cw.masks.i = true ∧ State.reset.Fits operand 10 ∧ State.reset.Writable operand 10) ∧
    (machine 0x03FE []).Inv ∧ (machine 0x03FE []).isEmpty 0 = true ∧ (machine 0x03FE []).cw.masks.i = false ∧
    (machine 0x03FE []).Fits operand 10 :=
  ⟨⟨reset_inv, by decide, rfl, fits (by decide +kernel), writable (by decide +kernel)⟩,
    idle_inv (by decide) rfl rfl rfl rfl rfl rfl, by decide, rfl, fits (by decide +kernel)⟩

/-- 7 and 3; 1 divided by 0 with Z unmasked. -/
theorem witness_RegisterArithmetic : (two.isEmpty 0 = false ∧ two.isEmpty 1 = false ∧
    Proceeds two (arith listReal two.cw two.draws .add false (two.num 0) (two.num 1)).before) ∧
    byZero.isEmpty 0 = false ∧ byZero.isEmpty 1 = false ∧
    ¬ Proceeds byZero (arith listDiv byZero.cw byZero.draws .div false (byZero.num 0) (byZero.num 1)).before :=
  ⟨⟨by decide, by decide, by unfold Proceeds; decide +kernel⟩, by decide, by decide, by unfold Proceeds; decide +kernel⟩
/-- A short real; a denormal in memory with D unmasked. -/
theorem witness_MemoryArithmetic : (two.Fits operand 4 ∧ two.isEmpty 0 = false ∧
    Proceeds two ((arith listReal two.cw two.draws .add false (two.num 0)
      (cvtReal .short (two.mem.readLE (two.ea operand).toNat 4)).value).withD false).before) ∧
    one.isEmpty 0 = false ∧ tiny.Fits operand 4 ∧ tiny.isEmpty 0 = false ∧ tiny.cw.masks.d = false ∧
    (cvtReal .short (tiny.mem.readLE (tiny.ea operand).toNat 4)).d = true ∧
    ∀ c : Computed, ¬ Proceeds tiny (c.withD true).before := by
  refine ⟨⟨fits (by decide +kernel), by decide, by unfold Proceeds; decide +kernel⟩, by decide, fits (by decide +kernel),
    by decide, rfl, by decide +kernel, fun c => ?_⟩
  obtain ⟨⟨i, d, z, o, u, p⟩, after, v⟩ := c
  unfold Proceeds Computed.withD
  dsimp only
  revert i d z o u p
  decide +kernel

theorem value_of {r : TReal} {neg : Bool} {m : Nat} {e : Int} (h : valOf r = ⟨neg, m, e⟩) :
    valueOf r = (if neg then -1 else 1) * m * 2 ^ e := by
  unfold valueOf Val.value
  rw [h]
theorem value_zero : valueOf 0 = 0 := (value_of (by decide : valOf 0 = ⟨false, 0, -16445⟩)).trans (by simp)
theorem value_one : valueOf oneReal = 1 :=
  (value_of (by decide : valOf oneReal = ⟨false, 2 ^ 63, -63⟩)).trans (by norm_num)
theorem value_half : valueOf 0x3FFE8000000000000000 = 1 / 2 :=
  (value_of (by decide : valOf 0x3FFE8000000000000000 = ⟨false, 2 ^ 63, -64⟩)).trans (by norm_num)
/-- The least scale factor in range. -/
theorem value_least_scale : valueOf 0xC00E8000000000000000 = -2 ^ 15 :=
  (value_of (by decide : valOf 0xC00E8000000000000000 = ⟨true, 2 ^ 63, -48⟩)).trans (by norm_num)

/-- The operands of the three instructions; scale factors at -2^15, at 0, and at 1/2, which is out of range;
sums of exponents at both ends; the numbers that are rounded; with D unmasked a denormal in ST, and the
unnormal 1 and a pseudo-zero as scale factors. -/
theorem witness_RootScaleAndRound : (two.isEmpty 0 = false ∧ two.isEmpty 1 = false) ∧
    Proceeds two (sqrtOf two.cw two.draws (two.num 0)).before ∧
    Proceeds two (scaleOf two.cw two.draws (two.num 0) (two.num 1)).before ∧
    Proceeds two (rndintOf two.cw (two.num 0)).before ∧
    (RoundsTo 3 (valueOf 0xC00E8000000000000000) (-2 ^ 15) ∧ valueOf 0xC00E8000000000000000 < 2 ^ 15 ∧
      classOf 0xC00E8000000000000000 = .normal ∧ 1 ≤ |valueOf 0xC00E8000000000000000|) ∧
    (RoundsTo 3 (valueOf 0) 0 ∧ classOf 0 = .zero) ∧
    (classOf 0x3FFE8000000000000000 = .normal ∧ |valueOf 0x3FFE8000000000000000| < 1) ∧
    ((valOf 0x00018000000000000000).exponent + 0 = -16382 ∧ (valOf 0x7FFEFFFFFFFFFFFFFFFF).exponent + 0 = 16383 ∧
      (Control.ofBits 0x0327).masks.o = false ∧ (Control.ofBits 0x0327).masks.u = false ∧
      (valOf 0x7FFEFFFFFFFFFFFFFFFF).exponent + 24576 = 16383 + 24576 ∧
      (valOf 0x00018000000000000000).exponent + -24576 = -16382 - 24576) ∧
    (classOf indefinite = .nan ∧ classOf 0x7FFF8000000000000000 = .infinity) ∧
    ((Control.ofBits 0x03FD).masks.d = false ∧ (classOf 1).denormalOperand = true ∧ (classOf oneReal = .normal ∧
      1 ≤ |valueOf oneReal| ∧ -2 ^ 15 ≤ valueOf oneReal ∧ valueOf oneReal < 2 ^ 15) ∧
      (classOf 0x40004000000000000000 = .unnormal ∧ valueOf 0x40004000000000000000 = 1) ∧
      classOf 0x40000000000000000000 = .pseudoZero ∧ valueOf 0x40000000000000000000 = 0) := by
  refine ⟨⟨by decide, by decide⟩, ?_, ?_, ?_, ⟨?_, ?_, by decide, ?_⟩, ⟨?_, by decide⟩, ⟨by decide, ?_⟩, by decide, by decide,
    by decide, by decide, ⟨by decide, ?_⟩, ⟨by decide, ?_⟩, by decide, ?_⟩
  iterate 3 · unfold Proceeds; decide +kernel
  · rw [value_least_scale]; exact ⟨nofun, nofun, nofun, fun _ => by rw [if_pos (by norm_num)]; norm_num⟩
  · rw [value_least_scale]; norm_num
  · rw [value_least_scale]; norm_num
  · rw [value_zero]; exact ⟨nofun, nofun, nofun, fun _ => by simp⟩
  · rw [value_half]; norm_num
  · rw [value_one]; norm_num
  · exact (value_of (by decide : valOf 0x40004000000000000000 = ⟨false, 2 ^ 62, -62⟩)).trans (by norm_num)
  · exact (value_of (by decide : valOf 0x40000000000000000000 = ⟨false, 0, -62⟩)).trans (by simp)
/-- I unmasked and a NAN, D unmasked and a denormal. -/
theorem witness_RootScaleAndRound_abandoned : notANumber.isEmpty 0 = false ∧ notANumber.isEmpty 1 = false ∧
    ¬ Proceeds notANumber (sqrtOf notANumber.cw notANumber.draws (notANumber.num 0)).before ∧
    ¬ Proceeds notANumber (scaleOf notANumber.cw notANumber.draws (notANumber.num 0) (notANumber.num 1)).before ∧
    ¬ Proceeds notANumber (rndintOf notANumber.cw (notANumber.num 0)).before ∧
    (scaleOf tiny.cw 0 1 0xFFFFC000000000000000).before = { ExcSet.onlyI with d := true } := by
  refine ⟨by decide, by decide, ?_, ?_, ?_, by decide +kernel⟩ <;> unfold Proceeds <;> decide +kernel
/-- Register forms with either operand empty, memory forms with D met, FXTRACT on an empty and a full stack; an
empty register with I unmasked, and with D unmasked and met. -/
theorem witness_EmptyOperandGivesIndefinite : one.isEmpty 1 = true ∧ one.isEmpty 0 = false ∧ State.reset.isEmpty 0 = true ∧
    one.cw.masks.i = true ∧ State.reset.Fits operand 8 ∧ (cvtReal .long 1).d = true ∧ State.reset.cw.masks.d = true ∧
    State.reset.pushFull = false ∧ (full.setTag 0 .empty).isEmpty 0 = true ∧ (full.setTag 0 .empty).pushFull = true ∧
    ((machine 0x03FE []).isEmpty 0 = true ∧ (machine 0x03FE []).cw.masks.i = false ∧ (machine 0x03FE []).Fits operand 8) ∧
    ((machine 0x03FD [] [1]).isEmpty 0 = true ∧ (machine 0x03FD [] [1]).cw.masks.i = true ∧
      (machine 0x03FD [] [1]).cw.masks.d = false ∧ (machine 0x03FD [] [1]).Fits operand 4 ∧
      (cvtReal .short ((machine 0x03FD [] [1]).mem.readLE 0x2000 4)).d = true) :=
  ⟨by decide, by decide, by decide, rfl, fits (by decide +kernel), by decide, rfl, by decide, by decide, by decide,
    ⟨by decide, rfl, fits (by decide +kernel)⟩, ⟨by decide, rfl, rfl, fits (by decide +kernel), by decide +kernel⟩⟩
theorem witness_SignInstructions : one.isEmpty 0 = false ∧ State.reset.isEmpty 0 = true ∧
    State.reset.cw.masks.i = true := by decide
theorem witness_PartialRemainder : (two.isEmpty 0 = false ∧ two.isEmpty 1 = false ∧
    Proceeds two (premOf two.cw two.draws (two.num 0) (two.num 1)).result.before) ∧
    notANumber.isEmpty 0 = false ∧ notANumber.isEmpty 1 = false ∧
    ¬ Proceeds notANumber (premOf notANumber.cw notANumber.draws (notANumber.num 0) (notANumber.num 1)).result.before :=
  ⟨⟨by decide, by decide, by unfold Proceeds; decide +kernel⟩, by decide, by decide, by unfold Proceeds; decide +kernel⟩
/-- 20 by 3, and two normal numbers whose exponents differ by 63, and by 64; a remainder that underflows; and
the operands that are not numbers. -/
theorem witness_RemainderIsExact :
    classOf 0x4003A000000000000000 = .normal ∧ classOf 0x4000C000000000000000 = .normal ∧
    (valOf 0x4003A000000000000000).exponent - (valOf 0x4000C000000000000000).exponent < 64 ∧
    (valOf 0x403FC000000000000000).exponent - (valOf 0x4000C000000000000000).exponent = 63 ∧
    (valOf 0x4040C000000000000000).exponent - (valOf 0x4000C000000000000000).exponent = 64 ∧
    (premOf .init 0 0x403FC000000000000000 0x4000C000000000000000).result.after.u = false ∧
    (premOf .init 0 0x00028000000000000000 0x0001C000000000000000).result.after.u = true ∧
    (classOf indefinite = .nan ∧ classOf 0x7FFF8000000000000000 = .infinity ∧ classOf 0 = .zero) ∧
    (classOf 1).denormalOperand = true ∧ (Control.ofBits 0x03FD).masks.d = false := by decide +kernel
/-- 2.5, -0, the indefinite with I masked and unmasked, and a denormal with D unmasked. -/
theorem witness_ExtractSplitsTheNumber :
    (∀ s ∈ [one, machine 0x03FF [0x80000000000000000000], machine 0x03FF [0xFFFFC000000000000000],
      machine 0x03FE [0xFFFFC000000000000000], machine 0x03FD [1]], s.isEmpty 0 = false ∧ s.pushFull = false) ∧
    classOf (one.num 0) = .normal ∧ classOf ((machine 0x03FF [0x80000000000000000000]).num 0) = .zero ∧
    classOf ((machine 0x03FF [0xFFFFC000000000000000]).num 0) = .nan ∧
    ((machine 0x03FF []).cw.masks.i = true ∧ (machine 0x03FE []).cw.masks.i = false) ∧
    (classOf ((machine 0x03FD [1]).num 0)).denormalOperand = true ∧ (machine 0x03FD [1]).cw.masks.d = false := by
  decide +kernel

theorem witness_ComparisonsSetTheCode : two.Fits operand 4 ∧ Proceeds two (two.compareOutcome (two.sourceSt 1)).2 ∧
    Proceeds two (two.compareOutcome (two.sourceReal .short 0x2000)).2 ∧
    Proceeds two (two.compareOutcome ⟨some 0, false⟩).2 ∧
    ¬ Proceeds notANumber (notANumber.compareOutcome (notANumber.sourceSt 1)).2 ∧ notANumber.Fits operand 4 ∧
    ¬ Proceeds notANumber (notANumber.compareOutcome ⟨some 0, false⟩).2 := by
  refine ⟨fits (by decide +kernel), ?_, ?_, ?_, ?_, fits (by decide +kernel), ?_⟩ <;> unfold Proceeds <;> decide +kernel
/-- A denormal in ST, with D masked and unmasked, compared with 1, with 0, and with an integer in memory; a denormal
in memory. -/
theorem witness_ComparisonIsByValue :
    (classOf 0x4000A000000000000000 = .normal ∧ classOf 0x80000000000000000000 = .zero ∧
      classOf 0x7FFF8000000000000000 = .infinity ∧ classOf indefinite = .nan ∧ Control.init.ic = false ∧
      (Control.ofBits 0x13FF).ic = true) ∧
    (∀ s ∈ [tiny, machine 0x03FF [1, 0x3FFF8000000000000000] [1]],
      s.isEmpty 0 = false ∧ (classOf (s.num 0)).denormalOperand = true ∧ s.cw.masks.i = true ∧
      (s.sourceSt 1).value = some oneReal ∧ classOf oneReal = .normal ∧
      (s.sourceInt .word 0x2000).value = some oneReal ∧ (s.sourceReal .short 0x2000).d = true) ∧
    tiny.Fits operand 4 ∧ tiny.cw.masks.d = false ∧ classOf 0 = .zero := by
  refine ⟨by decide, by decide +kernel, fits (by decide +kernel), rfl, by decide⟩
theorem witness_ExamineReportsTheClass : State.reset.isEmpty 0 = true ∧ one.isEmpty 0 = false ∧
    classOf (one.st 0) ≠ .pseudoSpecial := by decide +kernel

/-- The operands of each function at the ends of its range: X of F2XM1 0 and 1/2; Y / X of FPATAN just below
1 and tiny; Y of FYL2X with the two extreme exponents; X of FYL2XP1 the largest; Theta the largest. -/
theorem witness_TranscendentalsInRange :
    ((machine 0x03FF [0]).isEmpty 0 = false ∧ classOf ((machine 0x03FF [0]).num 0) = .zero) ∧
    ((machine 0x03FF [0x3FFE8000000000000000]).num 0 = 0x3FFE8000000000000000 ∧
      positiveNormal 0x3FFE8000000000000000 = true ∧ valueOf 0x3FFE8000000000000000 ≤ 1 / 2) ∧
    (f2xm1Tiny 0x0001B8AA3B295C17F0BB = true ∧ positiveNormal 0x0001B8AA3B295C17F0BB = true) ∧
    (patanInRange 0x3FFEFFFFFFFFFFFFFFFF 0x3FFF8000000000000000 = true ∧
      patanInRange 0x00018000000000000000 0x7FFEFFFFFFFFFFFFFFFF = true) ∧
    ((machine 0x03EF [0x0001B8AA3B295C17F0BB]).num 0 = 0x0001B8AA3B295C17F0BB ∧
      (machine 0x03EF [0x0001B8AA3B295C17F0BB]).cw.masks.u = false) ∧
    (two.isEmpty 1 = false ∧ two.pushFull = false) ∧
    (yl2xInRange 0 oneReal = true ∧ classOf 0 = .zero) ∧
    ((yl2xInRange 0x00418000000000000000 0x40008000000000000000 = true ∧ expOf 0x00418000000000000000 = 65) ∧
      expOf 0x7FEF8000000000000000 = 32751 ∧ (0x40008000000000000000 : TReal) ≠ oneReal) ∧
    (yl2xp1InRange 0 oneMinusHalfRoot2 = true ∧ yl2xp1InRange 0x00038000000000000000 oneMinusHalfRoot2 = true ∧
      16384 ≤ expOf 0x00038000000000000000 + expOf oneMinusHalfRoot2) ∧
    (ptanInRange quarterPi = true ∧ (machine 0x03FF [0x3FFEC90FDAA22168C234]).num 0 = quarterPi) :=
  ⟨by decide +kernel, ⟨by decide +kernel, by decide, value_half.le⟩, by decide, by decide, by decide +kernel, by decide, by decide, by decide,
    by decide, by decide +kernel⟩
/-- An infinity, a negative number, and numbers just outside the range. -/
theorem witness_TranscendentalsOnInvalidOperands :
    (two.isEmpty 0 = false ∧ two.isEmpty 1 = false ∧ two.pushFull = false) ∧
    (patanInRange 0x3FFF8000000000000000 0x3FFF8000000000000000 = false ∧
      patanInRange 0x3FFF8000000000000000 0x7FFF8000000000000000 = false) ∧
    (yl2xInRange oneReal 0xBFFF8000000000000000 = false ∧ yl2xInRange 0x7FFF8000000000000000 oneReal = false) ∧
    (yl2xp1InRange oneReal 0 = false ∧ yl2xp1InRange oneReal (oneMinusHalfRoot2 + 1) = false) ∧
    ¬ (positiveNormal 0x3FFE8000000000000001 = true ∧
      (0x3FFE8000000000000001 : TReal).toNat ≤ 0x3FFE8000000000000000) ∧
    (ptanInRange (quarterPi + 1) = false ∧ ptanInRange 0 = false) := by decide +kernel

/-- A state whose reserved control bits read back as loaded. -/
def keeping (s : State) : State := { s with conf := { s.conf with cwReserved := .stored } }
theorem witness_LoadControlWord : one.Fits operand 2 ∧ (keeping one).Fits operand 2 ∧
    (keeping one).conf.cwReserved = .stored :=
  ⟨fits (by decide +kernel), fits (by decide +kernel), rfl⟩
theorem witness_StoreControlAndStatusWord : one.Inv ∧ one.Fits operand 2 ∧ one.Writable operand 2 :=
  ⟨one_inv, fits (by decide +kernel), writable (by decide +kernel)⟩
theorem witness_StoreEnvironment : one.Inv ∧ one.Fits operand 14 ∧ one.Writable operand 14 :=
  ⟨one_inv, fits (by decide +kernel), writable (by decide +kernel)⟩
theorem witness_LoadEnvironmentAndState : one.Fits operand 14 ∧ one.Fits operand 94 ∧
    (keeping one).Fits operand 94 ∧ (keeping one).conf.cwReserved = .stored :=
  ⟨fits (by decide +kernel), fits (by decide +kernel), fits (by decide +kernel), rfl⟩
theorem witness_SaveState : one.Inv ∧ one.Fits operand 94 ∧ one.Writable operand 94 :=
  ⟨one_inv, fits (by decide +kernel), writable (by decide +kernel)⟩
theorem witness_SaveThenRestore : (two.Inv ∧ two.Fits operand 94 ∧ two.Writable operand 94 ∧ two.neu = none) ∧
    (keeping two).Inv ∧ (keeping two).Fits operand 94 ∧ (keeping two).Writable operand 94 ∧
    (keeping two).conf.cwReserved = .stored :=
  ⟨⟨two_inv, fits (by decide +kernel), writable (by decide +kernel), rfl⟩,
   ⟨two_inv.memory, two_inv.pending, two_inv.request, two_inv.busy, two_inv.running, two_inv.waiting, two_inv.queued,
    two_inv.settings⟩, fits (by decide +kernel), writable (by decide +kernel), rfl⟩

/-- An exact number, and one that lies between two neighbours, with just as many bits as that takes. -/
theorem witness_RoundingByControl : (0 < 0xAB ∧ 0 < 24 ∧ (0xAB : ℚ) = (0xAB : ℕ) * 2 ^ (0 : Int)) ∧
    24 ≤ Nat.log2 (2 ^ 24) ∧ ((2 ^ 24 : ℕ) : ℚ) * 2 ^ (0 : Int) < 2 ^ 24 + 1 / 2 ∧
    (2 ^ 24 + 1 / 2 : ℚ) < ((2 ^ 24 : ℕ) + 1) * 2 ^ (0 : Int) :=
  ⟨⟨by decide, by decide, by norm_num⟩, by decide +kernel, by norm_num, by norm_num⟩
/-- Two numbers, a zero and a number, the largest significand. -/
theorem witness_OperationsAreExactBeforeRounding : classOf oneReal = .normal ∧ signOf oneReal = false ∧
    (classOf 0 = .zero ∧ valueOf 0 + valueOf oneReal ≠ 0 ∧ valueOf 0 - valueOf oneReal ≠ 0) ∧
    valueOf oneReal + valueOf oneReal ≠ 0 ∧ valueOf oneReal - valueOf 0x3FFE8000000000000000 ≠ 0 ∧
    2 ^ 63 ≤ (valOf 0x4000C000000000000000).m ∧ (valOf 0x4000FFFFFFFFFFFFFFFF).m < 2 ^ 64 :=
  ⟨by decide, by decide, ⟨by decide, by rw [value_zero, value_one]; norm_num, by rw [value_zero, value_one]; norm_num⟩,
    by rw [value_one]; norm_num, by rw [value_one, value_half]; norm_num, by decide +kernel, by decide +kernel⟩
/-- The least and the greatest exponent of a result in range; for one between two neighbours, see
`witness_RoundingByControl`. -/
theorem witness_ResultInRange : Prec.p24 ≠ .reserved ∧ Prec.p24.bits = 24 ∧
    (⟨1, false, -16382⟩ : Mag).exponent ≥ -16382 ∧ (⟨2 ^ 24, true, 0⟩ : Mag).exponent ≥ -16382 ∧
    (Nat.log2 ((⟨2 ^ 24, true, 0⟩ : Mag).round 24 0 false).1 : Int) + ((⟨2 ^ 24, true, 0⟩ : Mag).round 24 0 false).2.1
      ≤ 16383 ∧
    (Nat.log2 ((⟨1, false, 16383⟩ : Mag).round 24 0 false).1 : Int) + ((⟨1, false, 16383⟩ : Mag).round 24 0 false).2.1
      ≤ 16383 := by decide +kernel
/-- The least overflow, one that the rounding to 24 and 53 bits makes, and the greatest underflow; an unmasked one
of each; a number between two neighbours. -/
theorem witness_OverflowAndUnderflow :
    ((16383 : Int) < Nat.log2 ((⟨1, false, 16384⟩ : Mag).round 64 0 false).1 + ((⟨1, false, 16384⟩ : Mag).round 64 0 false).2.1 ∧
      (Nat.log2 ((⟨1, false, 16384⟩ : Mag).round 64 0 false).1 : Int) + ((⟨1, false, 16384⟩ : Mag).round 64 0 false).2.1
        ≤ 16383 + 24576) ∧
    (∀ prec ∈ [Prec.p24, .p53], prec ≠ .reserved ∧ (16383 : Int) < Nat.log2 ((⟨2 ^ 64 - 1, false, 16320⟩ : Mag).round
      prec.bits 0 false).1 + ((⟨2 ^ 64 - 1, false, 16320⟩ : Mag).round prec.bits 0 false).2.1) ∧
    (64 ≤ Nat.log2 (2 ^ 64) ∧ ((2 ^ 64 : ℕ) : ℚ) * 2 ^ (0 : Int) < 2 ^ 64 + 1 / 2 ∧
      (2 ^ 64 + 1 / 2 : ℚ) < ((2 ^ 64 : ℕ) + 1) * 2 ^ (0 : Int) ∧ (⟨2 ^ 64, true, -16447⟩ : Mag).exponent < -16382) ∧
    ((⟨1, false, -16383⟩ : Mag).exponent < -16382 ∧ (⟨1, false, -16383⟩ : Mag).exponent ≥ -16382 - 24576) ∧
    Control.init.masks.o = true ∧ (Control.ofBits 0x0300).masks.u = false :=
  ⟨by decide +kernel, by decide +kernel, ⟨by decide +kernel, by norm_num, by norm_num, by decide +kernel⟩, by decide +kernel,
    rfl, by decide +kernel⟩
theorem witness_RealLoadThenStore : 0x3EAAAAAB < 2 ^ RealFmt.short.bits ∧
    ¬ (0x3EAAAAAB / 2 ^ 23 % 2 ^ 8 = 0 ∧ 0x3EAAAAAB % 2 ^ 23 ≠ 0) ∧ 0 < 0x3EAAAAAB / 2 ^ 23 % 2 ^ 8 := by decide
theorem witness_IntegerAndDecimalLoadThenStore : 0x8000 < 2 ^ IntFmt.word.bits ∧ 0 < 2 ^ IntFmt.long.bits ∧
    0x80000000000000000126 < 2 ^ 80 ∧ bcdValid 0x80000000000000000126 18 = true ∧
    bcdValid 0x00999999999999999999 18 = true := by decide +kernel
/-- Numbers in range of the formats, the least that is not, and one that a short real makes a denormal. -/
theorem witness_StoredNumbersAreRounded :
    (classOf indefinite = .nan ∧ classOf 0x7FFF8000000000000000 = .infinity ∧ classOf 0 = .zero ∧ classOf oneReal = .normal ∧
      expOf indefinite = 0x7FFF ∧ (expOf 0x00004000000000000001 = 0 ∧ sigOf 0x00004000000000000001 ≠ 0)) ∧
    (⌊|valueOf oneReal| + 1 / 2⌋ < 10 ^ 18 ∧ toInt .init .word 0x400E8000000000000000 = ⟨.onlyI, .none, 0x8000⟩) ∧
    (10 ^ 18 ≤ (⌊|valueOf 0x403ADE0B6B3A76400000| + 1 / 2⌋ : ℤ) ∧ classOf 0x403ADE0B6B3A76400000 = .normal) ∧
    ((1 - 127 : Int) ≤ (Mag.ofVal (valOf 0x3F818000000000000000)).exponent ∧ classOf 0x3F818000000000000000 = .normal) ∧
    ((Mag.ofVal (valOf 0x3F7EAE00000000000000)).exponent < 1 - 127 ∧ classOf 0x3F7EAE00000000000000 = .normal) ∧
    ((127 : Int) < Nat.log2 ((Mag.ofVal (valOf 0x7FFE8000000000000000)).round 24 0 false).1 +
      ((Mag.ofVal (valOf 0x7FFE8000000000000000)).round 24 0 false).2.1 ∧ classOf 0x7FFE8000000000000000 = .normal) ∧
    ((classOf 1).denormalOperand = true ∧ (Control.ofBits 0x03FD).masks.d = false) := by
  refine ⟨by decide, ⟨?_, by decide +kernel⟩, ⟨?_, by decide⟩, by decide +kernel, by decide +kernel, by decide +kernel, by decide⟩
  · rw [value_one]; norm_num
  · rw [value_of (by decide : valOf 0x403ADE0B6B3A76400000 = ⟨false, 0xDE0B6B3A76400000, -4⟩)]; norm_num
theorem witness_SpecialOperandsOfArithmetic : (classOf indefinite).extended = false ∧ classOf indefinite = .nan ∧
    classOf 0 = .zero ∧ classOf 0x7FFF8000000000000000 = .infinity ∧ classOf 0xFFFF8000000000000000 = .infinity ∧
    classOf oneReal = .normal ∧ Control.init.ic = false ∧ (Control.ofBits 0x13FF).ic = true ∧
    (signOf 0x7FFF8000000000000000 ^^ signOf 0xFFFF8000000000000000) = true ∧
    (listReal.d = true ∧ listDiv.d = true ∧ (classOf 1).denormalOperand = true ∧ (Control.ofBits 0x03FD).masks.d = false) ∧
    ((machine 0x03FD [1, 0x3FFF8000000000000000]).isEmpty 0 = false ∧ (machine 0x03FD [1, 0x3FFF8000000000000000]).isEmpty 1 = false ∧
      (machine 0x03FD [1, 0x3FFF8000000000000000]).cw.masks.d = false ∧
      classOf ((machine 0x03FD [1, 0x3FFF8000000000000000]).num 0) = .denormal ∧
      classOf ((machine 0x03FD [1, 0x3FFF8000000000000000]).num 1) = .normal) := by decide +kernel
theorem witness_SignsOfZeroResults : (classOf oneReal = .normal ∧ classOf 0x80000000000000000000 = .zero) ∧
    valueOf oneReal = -valueOf 0xBFFF8000000000000000 := by
  refine ⟨by decide, ?_⟩
  rw [value_one, value_of (by decide : valOf 0xBFFF8000000000000000 = ⟨true, 2 ^ 63, -63⟩)]
  norm_num
end Sys2Proof.Tests
end

section
/-! SUPPORT. FABS and FCHS (spec/42_arithmetic.md R318, R319): what another sign bit leaves of a register's
content, the three ways in which `setSign` ends, and the statement about the two instructions. -/

namespace Sys2Proof.Machine

/-! ### Another sign bit -/

@[simp] theorem signBit_withSign (neg : Bool) (r : TReal) : (withSign neg r).getLsbD 79 = neg := by
  rw [withSign, BitVec.getLsbD_append]; simp

@[simp] theorem magnitude_withSign (neg : Bool) (r : TReal) :
    (withSign neg r).extractLsb' 0 79 = r.extractLsb' 0 79 := by
  rw [withSign, BitVec.extractLsb'_append_eq_right]

/-- A field below the sign bit is a field of the other 79 bits. -/
theorem extractLsb'_eq_of_magnitude {r q : TReal} (h : r.extractLsb' 0 79 = q.extractLsb' 0 79)
    {start len : Nat} (hle : start + len ≤ 79) : r.extractLsb' start len = q.extractLsb' start len := by
  refine BitVec.eq_of_getLsbD_eq fun i hi => ?_
  have hbelow : start + i < 79 := by omega
  have hbit := congrArg (BitVec.getLsbD · (start + i)) h
  simpa [BitVec.getLsbD_extractLsb', hi, hbelow] using hbit

/-- The class of R178 is read off the exponent and the significand, which lie below the sign bit. -/
theorem classOf_eq_of_magnitude {r q : TReal} (h : r.extractLsb' 0 79 = q.extractLsb' 0 79) :
    classOf r = classOf q := by
  have hexp : expOf r = expOf q := congrArg BitVec.toNat (extractLsb'_eq_of_magnitude h (by decide))
  have hsig : sigOf r = sigOf q := congrArg BitVec.toNat (extractLsb'_eq_of_magnitude h (by decide))
  rw [classOf, hexp, hsig, classOf]

/-! ### What a conclusion and a write leave -/

theorem Ran.raised {s t : State} {ea : Option Addr} {ex : ExcSet} (h : Ran s t ea ex) : Raised s t ex :=
  ⟨h.flags, h.control, h.others⟩

theorem ExcSet.unmasked_onlyI (m : ExcSet) : ExcSet.onlyI.unmasked m = !m.i := by
  simp [ExcSet.unmasked, ExcSet.onlyI, ExcSet.none]

theorem ExcSet.upTo_onlyI (m : ExcSet) : ExcSet.onlyI.upTo m = .onlyI := by
  simp [ExcSet.upTo, ExcSet.onlyI, ExcSet.none]

/-- A value written to `ST(d)` by an instruction that then concludes has been delivered, without a pop. -/
theorem DeliveredTo.of_writeSt (s : State) (ea : Option Nat) (d : BitVec 3) (v : TReal) (ex : ExcSet)
    (code : BitVec 4) : DeliveredTo s (((s.begin ea).writeSt d v).conclude ex code) d v false := by
  refine ⟨rfl, fun p => ?_, fun p => ?_⟩
  · rw [State.reg_conclude, State.reg_writeSt]; rfl
  · rw [State.tag_conclude, State.tag_writeSt]; exact (if_neg (by simp)).symm

/-! ### setSign -/

/-- The sign written to a register that is not empty, with the tag it has. -/
theorem State.setSign_of_nonempty (s : State) (neg : Bool) (h : s.isEmpty 0 = false) :
    s.setSign neg =
      (s.setReg (s.phys 0) (withSign neg (s.st 0)) (s.stTag 0)).conclude .none s.freeCode := by
  unfold State.setSign
  rw [h, s.attempt_proceeds _ _ _ (ExcSet.beforeClass_invalidIf false) (ExcSet.unmasked_none _),
    if_neg (Bool.eq_false_iff.mp h)]
  rfl

/-- The indefinite written to an empty register, the invalid operation being masked. -/
theorem State.setSign_of_empty_masked (s : State) (neg : Bool) (h : s.isEmpty 0 = true)
    (hm : s.cw.masks.i = true) :
    s.setSign neg = (s.writeSt 0 indefinite).conclude .onlyI s.freeCode := by
  have hp : Proceeds s .onlyI := by rw [Proceeds, ExcSet.unmasked_onlyI, hm]; rfl
  unfold State.setSign
  rw [h, s.attempt_proceeds _ _ _ (ExcSet.beforeClass_invalidIf true) hp, if_pos h]
  rfl

/-- An unmasked invalid operation abandons the instruction. -/
theorem State.setSign_of_empty_unmasked (s : State) (neg : Bool) (h : s.isEmpty 0 = true)
    (hm : s.cw.masks.i = false) : Abandoned s ((s.begin none).setSign neg) none .onlyI := by
  have hp : ¬ Proceeds s .onlyI := by rw [Proceeds, ExcSet.unmasked_onlyI, hm]; simp
  have hinvalid : ExcSet.invalidIf ((s.begin none).isEmpty 0) = .onlyI := congrArg ExcSet.invalidIf h
  rw [State.setSign, hinvalid]
  refine (ExcSet.upTo_onlyI s.cw.masks).subst (motive := Abandoned s _ none) ?_
  exact s.attemptCode_abandoned none .onlyI .none _ _ (ExcSet.beforeClass_invalidIf true) hp

/-- FABS and FCHS differ in the sign they write only. -/
theorem exec_signInstruction {s : State} {i : Instr} {neg : Bool}
    (h : (i, neg) ∈ [(.fabs, false), (.fchs, !(s.st 0).getLsbD 79)]) :
    exec i s = .next ((s.begin none).setSign neg) := by
  simp only [List.mem_cons, List.not_mem_nil, or_false, Prod.mk.injEq] at h
  rcases h with ⟨rfl, rfl⟩ | ⟨rfl, rfl⟩ <;> rfl

/-! ### The statement -/

/-- In a register that is not empty only the sign bit changes. -/
theorem setSign_changes_only_the_sign {s t : State} {neg : Bool} (h : s.isEmpty 0 = false)
    (ht : t = (s.begin none).setSign neg) :
    Raised s t .none ∧ MemoryKept s t ∧ t.sw.top = s.sw.top ∧ (∀ p, t.tag p = s.tag p) ∧
      (∀ p, p ≠ s.sw.top → t.reg p = s.reg p) ∧ classOf (t.st 0) = classOf (s.st 0) ∧
      (t.st 0).getLsbD 79 = neg ∧ (t.st 0).extractLsb' 0 79 = (s.st 0).extractLsb' 0 79 := by
  rw [(s.begin none).setSign_of_nonempty neg h] at ht
  have hraised : Raised s t .none := by
    rw [ht]; exact (Ran.of_conclude (ea := none) (Effect.setReg ..) .none _).raised
  have hmem : t.mem = s.mem := by rw [ht]; rfl
  have htop : t.sw.top = s.sw.top := by rw [ht]; rfl
  have hreg (p : BitVec 3) : t.reg p = if p = s.phys 0 then withSign neg (s.st 0) else s.reg p := by
    rw [ht, State.reg_conclude, State.reg_setReg]; rfl
  have htag (p : BitVec 3) : t.tag p = if p = s.phys 0 then s.stTag 0 else s.tag p := by
    rw [ht, State.tag_conclude, State.tag_setReg]; rfl
  have hst : t.st 0 = withSign neg (s.st 0) := by
    rw [State.st_def, hreg, htop]; exact if_pos rfl
  refine ⟨hraised, fun x => by rw [hmem], htop, fun p => ?_, fun p hp => ?_, ?_, ?_, ?_⟩
  · rw [htag]
    split
    case isTrue hp => rw [hp, State.stTag]
    case isFalse => rfl
  · rw [hreg, if_neg (by simpa using hp)]
  · rw [hst]; exact classOf_eq_of_magnitude (magnitude_withSign ..)
  · rw [hst, signBit_withSign]
  · rw [hst, magnitude_withSign]

/-- An empty ST is an invalid operation: masked, it becomes the indefinite; unmasked, it stays. -/
theorem setSign_of_empty {s t : State} {neg : Bool} (h : s.isEmpty 0 = true)
    (ht : t = (s.begin none).setSign neg) :
    Raised s t .onlyI ∧ MemoryKept s t ∧
      if s.cw.masks.i then DeliveredTo s t 0 0xFFFFC000000000000000#80 false ∧ t.tag s.sw.top = .special
      else StackKept s t := by
  cases hm : s.cw.masks.i
  case false =>
    obtain ⟨hran, hstack, hmem, -⟩ := ht ▸ s.setSign_of_empty_unmasked neg h hm
    exact ⟨hran.raised, hmem, hstack⟩
  case true =>
    rw [(s.begin none).setSign_of_empty_masked neg h hm] at ht
    have hraised : Raised s t .onlyI := by
      rw [ht]; exact (Ran.of_conclude (ea := none) (Effect.writeSt ..) .onlyI _).raised
    have hmem : t.mem = s.mem := by rw [ht]; rfl
    have hdelivered : DeliveredTo s t 0 indefinite false := by rw [ht]; exact .of_writeSt ..
    have htag : t.tag s.sw.top = tagOf indefinite := by
      rw [ht, State.tag_conclude, State.tag_writeSt, if_pos (by simp)]
    have hspecial : tagOf indefinite = .special := by decide
    exact ⟨hraised, fun x => by rw [hmem], hdelivered, htag.trans hspecial⟩

/-- Settles O34: both instructions are `setSign`, which writes the sign bit alone where ST is not empty. -/
theorem signInstructions : Obligations.SignInstructions := by
  refine ⟨by decide, by decide, fun s i neg hi => ⟨fun h => ?_, fun h => ?_⟩⟩
  · exact ⟨_, exec_signInstruction hi, setSign_changes_only_the_sign h rfl⟩
  · exact ⟨_, exec_signInstruction hi, setSign_of_empty h rfl⟩

end Sys2Proof.Machine
end

section
/-! SUPPORT. FDECSTP and FFREE (spec/46_processor_control.md R436, R437): what an instruction that ends with
`endQuiet` leaves, and the statement about the two instructions. -/

namespace Sys2Proof.Machine

/-! ### The quiet end -/

@[simp] theorem State.endQuiet_mem (s : State) : s.endQuiet.mem = s.mem := rfl
@[simp] theorem State.endQuiet_top (s : State) : s.endQuiet.sw.top = s.sw.top := rfl
@[simp] theorem State.reg_endQuiet (s : State) (p : BitVec 3) : s.endQuiet.reg p = s.reg p := State.reg_react s p
@[simp] theorem State.tag_endQuiet (s : State) (p : BitVec 3) : s.endQuiet.tag p = s.tag p := State.tag_react s p

theorem OthersKept.endQuiet (s : State) : OthersKept s s.endQuiet := ⟨rfl, rfl, rfl, rfl, rfl, rfl, rfl, rfl⟩

/-- An instruction that recorded itself, had an effect, and ended quietly, has run and raised nothing. -/
theorem Ran.of_endQuiet {s t : State} {ea : Option Addr} (h : Effect (s.begin (ea.map BitVec.toNat)) t) :
    Ran s t.endQuiet ea .none where
  flags := h.ex.trans (ExcSet.union_none s.sw.ex).symm
  reacted := .react t
  control := h.cw
  recorded :=
    let r := Recorded.begin s ea
    ⟨h.iptr.trans r.instruction, h.opc.trans r.opcode, h.dptr.trans r.operand⟩
  others := ((OthersKept.begin s _).trans h.others).trans (.endQuiet t)

/-! ### The statement -/

/-- TOP counts down modulo 8: below 0 comes 7. -/
theorem toNat_top_sub_one (top : BitVec 3) : (top - 1).toNat = (top.toNat + 7) % 8 := by
  rw [BitVec.toNat_sub, Nat.add_comm]; rfl

/-- The second byte of FFREE counts up from C0H with the register (R437). -/
theorem encode_ffree (k : BitVec 3) : encode (.ffree k) = [0xDD, BitVec.ofNat 8 (0xC0 + k.toNat)] := by
  revert k; decide

/-- FDECSTP moves TOP and touches no register and no tag. -/
theorem exec_fdecstp (s : State) :
    Completes (exec .fdecstp s) fun t => Raised s t .none ∧ MemoryKept s t ∧
      t.sw.top.toNat = (s.sw.top.toNat + 7) % 8 ∧ (∀ p, t.reg p = s.reg p) ∧ ∀ p, t.tag p = s.tag p := by
  have hran : Ran s ((s.begin none).setTop (s.sw.top - 1)).endQuiet none .none := .of_endQuiet (Effect.setTop ..)
  refine ⟨_, rfl, hran.raised, fun x => ?memory, ?top, fun p => ?register, fun p => ?tag⟩
  case memory => rw [State.endQuiet_mem, State.setTop_mem, State.begin_mem]
  case top => rw [State.endQuiet_top, State.setTop_sw, toNat_top_sub_one]
  case register => rw [State.reg_endQuiet, State.reg_setTop, State.reg_begin]
  case tag => rw [State.tag_endQuiet, State.tag_setTop, State.tag_begin]

/-- FFREE empties the tag of ST(k) and touches no register, no other tag and not TOP. -/
theorem exec_ffree (s : State) (k : BitVec 3) :
    Completes (exec (.ffree k) s) fun t => Raised s t .none ∧ MemoryKept s t ∧
      t.sw.top = s.sw.top ∧ (∀ p, t.reg p = s.reg p) ∧
      ∀ p, t.tag p = if p = s.sw.top + k then .empty else s.tag p := by
  have hran : Ran s ((s.begin none).setTag (s.phys k) .empty).endQuiet none .none := .of_endQuiet (Effect.setTag ..)
  refine ⟨_, rfl, hran.raised, fun x => ?memory, ?top, fun p => ?register, fun p => ?tag⟩
  case memory => rw [State.endQuiet_mem, State.setTag_mem, State.begin_mem]
  case top => rw [State.endQuiet_top, State.setTag_sw, State.begin_sw]
  case register => rw [State.reg_endQuiet, State.reg_setTag, State.reg_begin]
  case tag => rw [State.tag_endQuiet, State.tag_setTag, State.tag_begin, State.phys_def]

/-- Settles O43: each instruction writes TOP or one tag alone and then ends quietly. -/
theorem decrementAndFree : Obligations.DecrementAndFree :=
  ⟨rfl, encode_ffree, fun s => ⟨exec_fdecstp s, exec_ffree s⟩⟩

end Sys2Proof.Machine
end

section
/-! SUPPORT. Encoder and decoder (spec/30_encoding.md): each format is read back, the reserved cells are those
listed, and whatever is read has its bytes as encoding. -/

namespace Sys2Proof

/-! ### The fields of the bytes -/

theorem escape_ne_wait (a : BitVec 3) : (0b11011 : BitVec 5) ++ a ≠ (0x9B : Byte) := by revert a; decide

theorem segOfPrefix_escape (a : BitVec 3) : segOfPrefix ((0b11011 : BitVec 5) ++ a) = none := by revert a; decide

theorem address_fields (md : BitVec 2) (b r : BitVec 3) :
    (md ++ b ++ r).extractLsb' 6 2 = md ∧ (md ++ b ++ r).extractLsb' 3 3 = b ∧
      (md ++ b ++ r).extractLsb' 0 3 = r := by
  revert md b r; decide +kernel

theorem word_halves (x : BitVec 16) : (x.extractLsb' 8 8 ++ x.extractLsb' 0 8 : BitVec 16) = x := by
  rw [BitVec.extractLsb'_append_extractLsb'_eq_extractLsb' (by rfl), BitVec.extractLsb'_eq_self]

theorem extractLsb'_word (hi lo : Byte) :
    (hi ++ lo : BitVec 16).extractLsb' 0 8 = lo ∧ (hi ++ lo : BitVec 16).extractLsb' 8 8 = hi :=
  ⟨BitVec.extractLsb'_append_eq_right, BitVec.extractLsb'_append_eq_left⟩

@[simp] theorem Base.ofCode_code (b : Base) : Base.ofCode b.code = b := by cases b <;> rfl
@[simp] theorem Base.code_ofCode (rm : BitVec 3) : (Base.ofCode rm).code = rm := by revert rm; decide
theorem Base.code_eq_six (b : Base) : b.code = 6 ↔ b = .bp := by cases b <;> decide

theorem escape_split (b : Byte) (h : b.extractLsb' 3 5 = 0b11011) :
    (0b11011 : BitVec 5) ++ b.extractLsb' 0 3 = b := by
  revert b; decide +kernel

theorem address_split (b : Byte) : b.extractLsb' 6 2 ++ b.extractLsb' 3 3 ++ b.extractLsb' 0 3 = b := by
  revert b; decide +kernel

/-! ### The memory operand -/

/-- The addressing byte is read by its three fields. -/
theorem decodeEsc_fields (a : BitVec 3) (md : BitVec 2) (b r : BitVec 3) (bs : List Byte) :
    decodeEsc a (md ++ b ++ r) bs =
      if md = 3 then .ok (decodeRegForm a b r, bs)
      else match decodeMemOp md r bs with
        | some (m, rest) => .ok (decodeMemForm a b m, rest)
        | none => .error .truncated := by
  obtain ⟨h1, h2, h3⟩ := address_fields md b r
  simp only [decodeEsc, h1, h2, h3] <;> rfl

theorem decodeMemOp_noDisp (rm : BitVec 3) (bs : List Byte) (h : rm ≠ 6) :
    decodeMemOp 0 rm bs = some (.noDisp (Base.ofCode rm), bs) := by
  unfold decodeMemOp
  rw [if_pos rfl, if_neg h]
theorem decodeMemOp_direct (off : BitVec 16) (bs : List Byte) :
    decodeMemOp 0 6 (off.extractLsb' 0 8 :: off.extractLsb' 8 8 :: bs) = some (.direct off, bs) :=
  congrArg (fun x => some (MemOp.direct x, bs)) (word_halves off)
theorem decodeMemOp_disp8 (rm : BitVec 3) (d : Byte) (bs : List Byte) :
    decodeMemOp 1 rm (d :: bs) = some (.disp8 (Base.ofCode rm) d, bs) := rfl
theorem decodeMemOp_disp16 (rm : BitVec 3) (d : BitVec 16) (bs : List Byte) :
    decodeMemOp 2 rm (d.extractLsb' 0 8 :: d.extractLsb' 8 8 :: bs) = some (.disp16 (Base.ofCode rm) d, bs) :=
  congrArg (fun x => some (MemOp.disp16 (Base.ofCode rm) x, bs)) (word_halves d)

/-- The addressing byte and the displacement of a well-formed operand are read back. -/
theorem decodeEsc_encodeMemOp (a b : BitVec 3) (m : MemOp) (rest : List Byte) (hm : m.wf = true) :
    ∃ b1 bs, encodeMemOp b m ++ rest = b1 :: bs ∧ decodeEsc a b1 bs = .ok (decodeMemForm a b m, rest) := by
  have read (md : BitVec 2) (r : BitVec 3) (bs : List Byte) (hmd : md ≠ 3)
      (h : decodeMemOp md r bs = some (m, rest)) :
      decodeEsc a (md ++ b ++ r) bs = .ok (decodeMemForm a b m, rest) := by
    rw [decodeEsc_fields, if_neg hmd, h]
  cases m with
  | noDisp r =>
    have hr : r.code ≠ 6 := fun h => of_decide_eq_true hm ((Base.code_eq_six r).mp h)
    exact ⟨_, _, rfl, read _ _ _ (by decide) (by rw [decodeMemOp_noDisp _ _ hr, Base.ofCode_code]; rfl)⟩
  | direct off => exact ⟨_, _, rfl, read _ _ _ (by decide) (decodeMemOp_direct off rest)⟩
  | disp8 r d =>
    exact ⟨_, _, rfl, read _ _ _ (by decide) ((decodeMemOp_disp8 r.code d rest).trans (by rw [Base.ofCode_code]))⟩
  | disp16 r d =>
    exact ⟨_, _, rfl, read _ _ _ (by decide) ((decodeMemOp_disp16 r.code d rest).trans (by rw [Base.ofCode_code]))⟩

/-- Whatever operand is read is well-formed, and was read from its own bytes. -/
theorem encodeMemOp_of_decodeMemOp (md : BitVec 2) (b rm : BitVec 3) (bs rest : List Byte) (m : MemOp)
    (hmd : md ≠ 3) (h : decodeMemOp md rm bs = some (m, rest)) :
    m.wf = true ∧ encodeMemOp b m ++ rest = (md ++ b ++ rm) :: bs := by
  have three : ∀ x : BitVec 2, x ≠ 3 → x = 0 ∨ x = 1 ∨ x = 2 := by decide
  unfold decodeMemOp at h
  rcases three md hmd with rfl | rfl | rfl
  · rw [if_pos rfl] at h
    split at h
    · next h6 =>
      subst h6
      split at h
      · next lo hi rest' =>
        obtain ⟨rfl, rfl⟩ := Prod.mk.inj (Option.some.inj h)
        simp [MemOp.wf, encodeMemOp, extractLsb'_word]
      · exact nomatch h
    · next h6 =>
      obtain ⟨rfl, rfl⟩ := Prod.mk.inj (Option.some.inj h)
      have hbp : Base.ofCode rm ≠ .bp := fun e => h6 (by rw [← Base.code_ofCode rm, e]; rfl)
      simp [MemOp.wf, encodeMemOp, hbp]
  · rw [if_neg (by decide), if_pos rfl] at h
    split at h
    · obtain ⟨rfl, rfl⟩ := Prod.mk.inj (Option.some.inj h)
      simp [MemOp.wf, encodeMemOp]
    · exact nomatch h
  · rw [if_neg (by decide), if_neg (by decide)] at h
    split at h
    · obtain ⟨rfl, rfl⟩ := Prod.mk.inj (Option.some.inj h)
      simp [MemOp.wf, encodeMemOp, extractLsb'_word]
    · exact nomatch h

/-! ### The two formats -/

theorem decode_escape (a : BitVec 3) (b1 : Byte) (bs : List Byte) :
    decode (((0b11011 : BitVec 5) ++ a) :: b1 :: bs) = decodeEsc a b1 bs := by
  simp only [decode]
  rw [if_neg (escape_ne_wait a), if_pos (Laws.escape_byte a), Machine.opcode_low]

theorem decode_encM (a b : BitVec 3) (m : MemOp) (rest : List Byte) (hm : m.wf = true) :
    decode (encM a b m ++ rest) = .ok (decodeMemForm a b m, rest) := by
  obtain ⟨b1, bs, he, hd⟩ := decodeEsc_encodeMemOp a b m rest hm
  rw [encM, List.cons_append, he, decode_escape, hd]

theorem decode_encR (a b i : BitVec 3) (rest : List Byte) :
    decode (encR a b i ++ rest) = .ok (decodeRegForm a b i, rest) := by
  rw [encR, List.cons_append, List.cons_append, decode_escape, decodeEsc_fields, if_pos rfl, List.nil_append]

/-! ### The reserved cells -/

/-- The operand is passed on, and only a reserved cell gives a reserved term. -/
theorem decodeMemForm_wf (a b : BitVec 3) (m : MemOp) : (decodeMemForm a b m).wf = m.wf := by
  have h : ∀ x y : Fin 8, (decodeMemForm (BitVec.ofNat 3 x) (BitVec.ofNat 3 y) m).wf = m.wf := by
    intro x y; fin_cases x <;> fin_cases y <;> exact Bool.and_true _
  simpa using h a.toFin b.toFin

theorem decodeRegForm_wf (a b i : BitVec 3) : (decodeRegForm a b i).wf = true := by
  revert a b i; decide +kernel

theorem decodeMemForm_eq_reserved (a b : BitVec 3) (m : MemOp) :
    decodeMemForm a b m = .reservedM a b m ↔ reservedMem a b = true := by
  have h : ∀ x y : Fin 8, decodeMemForm (BitVec.ofNat 3 x) (BitVec.ofNat 3 y) m =
      .reservedM (BitVec.ofNat 3 x) (BitVec.ofNat 3 y) m ↔
        reservedMem (BitVec.ofNat 3 x) (BitVec.ofNat 3 y) = true := by
    intro x y; fin_cases x <;> fin_cases y <;> simp [decodeMemForm, reservedMem]
  simpa using h a.toFin b.toFin

theorem decodeRegForm_eq_reserved (a b i : BitVec 3) :
    decodeRegForm a b i = .reservedR a b i ↔ reservedReg a b i = true := by
  revert a b i; decide +kernel

/-! ### Every instruction -/

/-- Every well-formed escape instruction is a cell of the memory format or of the register format. -/
theorem encode_format (i : Instr) (hw : i.wf = true) (hi : i ≠ .fwait) :
    (∃ a b m, m.wf = true ∧ encode i = encM a b m ∧ decodeMemForm a b m = i) ∨
      ∃ a b k, encode i = encR a b k ∧ decodeRegForm a b k = i := by
  cases i with
  | fwait => exact absurd rfl hi
  | reservedM a b m =>
    have hr : reservedMem a b = true := (Bool.and_eq_true _ _ ▸ hw).2
    exact .inl ⟨a, b, m, Laws.wf_memOp _ m rfl hw, rfl, (decodeMemForm_eq_reserved a b m).mpr hr⟩
  | reservedR a b k =>
    have hr : reservedReg a b k = true := (Bool.and_eq_true _ _ ▸ hw).2
    exact .inr ⟨a, b, k, rfl, (decodeRegForm_eq_reserved a b k).mpr hr⟩
  | fldM32 m | fldM64 m | fldM80 m | fstM32 m | fstM64 m | fstpM32 m | fstpM64 m | fstpM80 m | fildM16 m
  | fildM32 m | fildM64 m | fistM16 m | fistM32 m | fistpM16 m | fistpM32 m | fistpM64 m | fbld m | fbstp m
  | faddM32 m | faddM64 m | fiaddM16 m | fiaddM32 m | fsubM32 m | fsubM64 m | fisubM16 m | fisubM32 m
  | fsubrM32 m | fsubrM64 m | fisubrM16 m | fisubrM32 m | fmulM32 m | fmulM64 m | fimulM16 m | fimulM32 m
  | fdivM32 m | fdivM64 m | fidivM16 m | fidivM32 m | fdivrM32 m | fdivrM64 m | fidivrM16 m | fidivrM32 m
  | fcomM32 m | fcomM64 m | fcompM32 m | fcompM64 m | ficomM16 m | ficomM32 m | ficompM16 m | ficompM32 m
  | fldcw m | fstcw m | fstsw m | fstenv m | fldenv m | fsave m | frstor m =>
    exact .inl ⟨_, _, m, Laws.wf_memOp _ m rfl hw, rfl, rfl⟩
  | _ => exact .inr ⟨_, _, _, rfl, rfl⟩

/-- The bytes of a well-formed instruction are read back, and what follows is left. -/
theorem decode_encode (i : Instr) (rest : List Byte) (hw : i.wf = true) :
    decode (encode i ++ rest) = .ok (i, rest) := by
  by_cases hi : i = .fwait
  · subst hi; rfl
  · rcases encode_format i hw hi with ⟨a, b, m, hm, he, hd⟩ | ⟨a, b, k, he, hd⟩
    · rw [he, decode_encM a b m rest hm, hd]
    · rw [he, decode_encR, hd]

/-- No instruction starts with a segment-override byte. -/
theorem encode_head (i : Instr) (hw : i.wf = true) : ∃ b bs, encode i = b :: bs ∧ segOfPrefix b = none := by
  by_cases hi : i = .fwait
  · subst hi; exact ⟨_, _, rfl, rfl⟩
  · rcases encode_format i hw hi with ⟨a, b, m, -, he, -⟩ | ⟨a, b, k, he, -⟩
    · exact ⟨_, _, he, segOfPrefix_escape a⟩
    · exact ⟨_, _, he, segOfPrefix_escape a⟩

theorem segOfPrefix_prefixByte (g : SegReg) : segOfPrefix (prefixByte g) = some g := by cases g <;> rfl

theorem prefixByte_of_segOfPrefix {b : Byte} {g : SegReg} (h : segOfPrefix b = some g) : prefixByte g = b := by
  unfold segOfPrefix at h
  split at h
  · next hb => rw [hb, ← Option.some.inj h]; rfl
  split at h
  · next hb => rw [hb, ← Option.some.inj h]; rfl
  split at h
  · next hb => rw [hb, ← Option.some.inj h]; rfl
  split at h
  · next hb => rw [hb, ← Option.some.inj h]; rfl
  · exact nomatch h

/-- Settles O1: the bytes of either format are read back, and no instruction starts with an override byte. -/
theorem decodeOfEncode : Obligations.DecodeOfEncode := by
  refine ⟨decode_encode, fun seg i rest hw hseg => ?_⟩
  have hd := decode_encode i rest hw
  cases seg with
  | none =>
    obtain ⟨b, bs, he, hb⟩ := encode_head i hw
    simp only [encodeFull]
    rw [he] at hd ⊢
    rw [List.cons_append] at hd ⊢
    simp only [decodeFull, hb, hd]
  | some g =>
    have hi : i ≠ .fwait := fun h => nomatch hseg h
    simp only [encodeFull, List.cons_append, decodeFull, segOfPrefix_prefixByte, hd, if_neg hi]

/-- Whatever is read is well-formed and was read from its own bytes. -/
theorem encode_of_decode (bs rest : List Byte) (i : Instr) (h : decode bs = .ok (i, rest)) :
    i.wf = true ∧ encode i ++ rest = bs := by
  cases bs with
  | nil => exact nomatch h
  | cons b0 bs =>
    simp only [decode] at h
    split at h
    · next hb =>
      obtain ⟨rfl, rfl⟩ := Prod.mk.inj (Except.ok.inj h)
      exact ⟨rfl, by rw [hb]; rfl⟩
    · split at h
      · next hesc =>
        cases bs with
        | nil => exact nomatch h
        | cons b1 bs =>
          simp only [decodeEsc] at h
          split at h
          · next h3 =>
            obtain ⟨rfl, rfl⟩ := Prod.mk.inj (Except.ok.inj h)
            refine ⟨decodeRegForm_wf .., ?_⟩
            rw [Machine.encode_decodeRegForm, encR, escape_split b0 hesc, ← h3, address_split]; rfl
          · next h3 =>
            split at h
            · next m rest' hm =>
              obtain ⟨rfl, rfl⟩ := Prod.mk.inj (Except.ok.inj h)
              obtain ⟨hmw, hme⟩ := encodeMemOp_of_decodeMemOp _ (b1.extractLsb' 3 3) _ _ _ _ h3 hm
              refine ⟨(decodeMemForm_wf ..).trans hmw, ?_⟩
              rw [Machine.encode_decodeMemForm, encM, escape_split b0 hesc, List.cons_append, hme, address_split]
            · exact nomatch h
      · exact nomatch h

/-- Settles O2: the decoder's cases, each with the bytes that it has taken. -/
theorem encodeOfDecode : Obligations.EncodeOfDecode := by
  refine ⟨encode_of_decode, fun bs rest seg i h => ?_⟩
  cases bs with
  | nil => exact nomatch h
  | cons b bs =>
    simp only [decodeFull] at h
    split at h
    · split at h
      · next hd =>
        simp only [Except.ok.injEq, Prod.mk.injEq] at h
        obtain ⟨rfl, rfl, rfl⟩ := h
        exact encode_of_decode _ _ _ hd
      · exact nomatch h
    · next g hg =>
      split at h
      · next hd =>
        split at h
        · exact nomatch h
        · simp only [Except.ok.injEq, Prod.mk.injEq] at h
          obtain ⟨rfl, rfl, rfl⟩ := h
          obtain ⟨hw, he⟩ := encode_of_decode _ _ _ hd
          exact ⟨hw, by rw [encodeFull, List.cons_append, he, prefixByte_of_segOfPrefix hg]⟩
      · exact nomatch h

/-- Settles O3: the decoder, run on each of the words. -/
theorem sampleWordsDecode : Obligations.SampleWordsDecode :=
  ⟨rfl, rfl, rfl, rfl, rfl, rfl, rfl, rfl, rfl, rfl, rfl, rfl⟩

/-- Settles O4: a cell decodes to a reserved term exactly where the list of its format has it. -/
theorem reservedEncodingsAreThoseListed : Obligations.ReservedEncodingsAreThoseListed := by
  refine ⟨fun a b m => (decodeMemForm_eq_reserved a b m).trans decide_eq_true_iff, fun a b i => ?_⟩
  exact (decodeRegForm_eq_reserved a b i).trans (by revert a b i; decide +kernel)

end Sys2Proof
end

section
/-! SUPPORT. The operand address (spec/30_encoding.md R124): the offset and the segment of each row, as numbers, and
the segment-override byte that an event brings. -/

namespace Sys2Proof.Machine

/-- The sum of the base and index registers that an `rm` field selects, before it is cut to 16 bits (R124). -/
def baseSum (r : CpuRegs) (rm : BitVec 3) : Nat :=
  match rm.toNat with
  | 0 => r.bx.toNat + r.si.toNat | 1 => r.bx.toNat + r.di.toNat
  | 2 => r.bp.toNat + r.si.toNat | 3 => r.bp.toNat + r.di.toNat
  | 4 => r.si.toNat | 5 => r.di.toNat | 6 => r.bp.toNat | _ => r.bx.toNat

/-- The content of the segment register of an address: the override's, or the default one. -/
def segmentOf (p : Port) (dflt : Word) : Nat :=
  match p.seg with
  | none => dflt.toNat
  | some .es => p.cpu.es.toNat | some .cs => p.cpu.cs.toNat
  | some .ss => p.cpu.ss.toNat | some .ds => p.cpu.ds.toNat

theorem toNat_offset_ofCode (r : CpuRegs) (rm : BitVec 3) :
    (Base.offset (Base.ofCode rm) r).toNat = baseSum r rm % 2 ^ 16 := by
  have h : ∀ x : Fin 8, (Base.offset (Base.ofCode (BitVec.ofNat 3 x)) r).toNat =
      baseSum r (BitVec.ofNat 3 x) % 2 ^ 16 := by
    have cut (x : Word) : x.toNat = x.toNat % 2 ^ 16 := (Nat.mod_eq_of_lt x.isLt).symm
    intro x
    match x with
    | 0 | 1 | 2 | 3 => exact BitVec.toNat_add ..
    | 4 | 5 | 6 | 7 => exact cut _
  simpa using h rm.toFin

theorem usesBp_ofCode (rm : BitVec 3) :
    Base.usesBp (Base.ofCode rm) = true ↔ rm = 2 ∨ rm = 3 ∨ rm = 6 := by
  revert rm; decide

/-- An operand address: the segment times 16, plus the offset, modulo 2^20 (R124). -/
theorem toNat_ea (p : Port) (m : MemOp) (dflt : Word) (h : p.cpu.seg (MemOp.defaultSeg m) = dflt) :
    (p.ea m).toNat = (segmentOf p dflt * 16 + (MemOp.offset m p.cpu).toNat) % 2 ^ 20 := by
  have hseg : (p.cpu.seg (p.seg.getD (MemOp.defaultSeg m))).toNat = segmentOf p dflt := by
    unfold segmentOf
    split
    case h_1 hs => rw [hs, Option.getD_none, h]
    all_goals next hs => rw [hs]; rfl
  have hs := (p.cpu.seg (p.seg.getD (MemOp.defaultSeg m))).isLt
  have ho := (MemOp.offset m p.cpu).isLt
  rw [Port.ea, BitVec.toNat_add, BitVec.toNat_mul, BitVec.toNat_setWidth, BitVec.toNat_setWidth, ← hseg]
  change (_ % 2 ^ 20 * 16 % 2 ^ 20 + _) % 2 ^ 20 = _
  omega

/-- The default segment is SS for the rows with BP (R124). -/
theorem seg_default (r : CpuRegs) (rm : BitVec 3) :
    r.seg (if Base.usesBp (Base.ofCode rm) then .ss else .ds) = if rm = 2 ∨ rm = 3 ∨ rm = 6 then r.ss else r.ds := by
  by_cases h : rm = 2 ∨ rm = 3 ∨ rm = 6
  · rw [if_pos h, if_pos ((usesBp_ofCode rm).mpr h)]; rfl
  · rw [if_neg h, if_neg fun hb => h ((usesBp_ofCode rm).mp hb)]; rfl

theorem toNat_disp8 (x : Word) (d : BitVec 8) :
    ((x + d.signExtend 16).toNat : Int) = (x.toNat + d.toInt) % 2 ^ 16 := by
  have hd : (d.signExtend 16).toInt = d.toInt := BitVec.toInt_signExtend_of_le (by decide)
  have hn : ((d.signExtend 16).toNat : Int) % 2 ^ 16 = d.toInt % 2 ^ 16 := by
    rw [← hd, BitVec.toInt_eq_toNat_cond]
    split <;> omega
  rw [BitVec.toNat_add]
  omega

/-- A segment-override byte is one of four (R124). -/
theorem segOfPrefix_isSome (b : Byte) :
    (segOfPrefix b).isSome = true ↔ b = 0x26 ∨ b = 0x2E ∨ b = 0x36 ∨ b = 0x3E := by
  revert b; decide +kernel

/-- Settles O6: each row is one offset and one default segment. -/
theorem operandAddressTable : Obligations.OperandAddressTable := by
  refine ⟨fun p rm d8 d16 => ⟨fun _ => ?_, ?_, ?_, ?_⟩, fun s e rest b bs hb => ⟨rfl, rfl, ?_, ?_⟩⟩
  · refine (toNat_ea p (.noDisp (Base.ofCode rm)) _ (seg_default p.cpu rm)).trans ?_
    rw [MemOp.offset, toNat_offset_ofCode]; rfl
  · exact toNat_ea p (.direct d16) _ rfl
  · refine (congrArg Nat.cast (toNat_ea p (.disp8 (Base.ofCode rm) d8) _ (seg_default p.cpu rm))).trans ?_
    have ho := toNat_disp8 (Base.offset (Base.ofCode rm) p.cpu) d8
    rw [toNat_offset_ofCode] at ho
    change ((_ % 2 ^ 20 : Nat) : Int) = ((segmentOf p _ : Int) * 16 + ((baseSum p.cpu rm : Int) + _) % 2 ^ 16) % 2 ^ 20
    rw [MemOp.offset]
    push_cast
    omega
  · refine (toNat_ea p (.disp16 (Base.ofCode rm) d16) _ (seg_default p.cpu rm)).trans ?_
    change _ = (segmentOf p _ * 16 + (baseSum p.cpu rm + _) % 2 ^ 16) % 2 ^ 20
    rw [MemOp.offset, BitVec.toNat_add, toNat_offset_ofCode, Nat.mod_add_mod]
  · rw [State.present_port, Event.seg, hb]; rfl
  · rw [State.present_port, Event.escape, hb]
    by_cases h : b = 0x26 ∨ b = 0x2E ∨ b = 0x36 ∨ b = 0x3E
    · simp only [(segOfPrefix_isSome b).mpr h, if_true, if_pos h]
    · simp only [mt (segOfPrefix_isSome b).mp h, if_neg h]
      simp

end Sys2Proof.Machine
end

section
/-! SUPPORT. What every instruction does to memory, to the other agents' state and to the interrupt state: by the
NEU's one lemma, and by the state that each instruction of the CU leaves. -/

namespace Sys2Proof.Machine

/-! ### Initialization and the control instructions without an operand -/

/-- What FINIT, FSAVE and RESET leave of a state (10_state.md R66). -/
structure Initialized (s t : State) : Prop where
  cw : t.cw = .init
  tags : t.tags = Vector.replicate 8 .empty
  top : t.sw.top = 0
  ex : t.sw.ex = .none
  ir : t.sw.ir = false
  busy : t.sw.busy = false
  neu : t.neu = none
  pending : t.pending = false
  queued : t.queued = none
  regs : t.regs = s.regs
  iptr : t.iptr = s.iptr
  opc : t.opc = s.opc
  dptr : t.dptr = s.dptr
  port : t.port = s.port
  inbox : t.inbox = s.inbox
  mem : t.mem = s.mem
  cpuData : t.cpuData = s.cpuData
  storing : t.storing = s.storing
  code : t.code = s.code
  conf : t.conf = s.conf

theorem exec_finit_next {s t : State} (h : exec .finit s = .next t) : Initialized (s.begin none) t := by
  obtain rfl := Host.Outcome.next.inj h
  exact ⟨rfl, rfl, rfl, rfl, rfl, rfl, rfl, rfl, rfl, rfl, rfl, rfl, rfl, rfl, rfl, rfl, rfl, rfl, rfl, rfl⟩

/-- FSAVE initializes what the store of the image leaves. -/
theorem exec_fsave_initialized {s t : State} {m : MemOp} (h : exec (.fsave m) s = .next t) :
    Initialized (((s.begin (some (s.ea m).toNat)).storeEnv (s.ea m).toNat).storeStack ((s.ea m).toNat + 14) 8) t := by
  obtain ⟨-, -, rfl⟩ := exec_fsave_next s t m h
  unfold State.afterFsave
  generalize State.storeStack _ _ 8 = u
  exact ⟨rfl, rfl, rfl, rfl, rfl, rfl, rfl, rfl, rfl, rfl, rfl, rfl, rfl, rfl, rfl, rfl, rfl, rfl, rfl, rfl⟩

theorem exec_fdisi (s : State) : exec .fdisi s = .next ((s.begin none).setIem true) := rfl
theorem exec_feni (s : State) : exec .feni s = .next ((s.begin none).setIem false) := rfl
theorem exec_fclex (s : State) : exec .fclex s = .next (s.begin none).clearExceptions := rfl
theorem exec_fwait_next {s t : State} (h : exec .fwait s = .next t) : s.pending = false ∧ t = s := by
  change execFwait s = _ at h
  unfold execFwait at h
  split at h
  · exact nomatch h
  · next hp => exact ⟨Bool.eq_false_of_not_eq_true hp, (Host.Outcome.next.inj h).symm⟩

/-- `IEM` is set; under `release` the NDP reacts to it (D10). -/
theorem State.setIem_hold (s : State) (b : Bool) (h : s.conf.busyWhenIem = .hold) :
    s.setIem b = { s with cw := { s.cw with iem := b } } := by
  unfold State.setIem; rw [h]
theorem State.setIem_release (s : State) (b ir : Bool) (h : s.conf.busyWhenIem = .release ir) :
    s.setIem b = State.react { s with cw := { s.cw with iem := b } } := by
  unfold State.setIem; rw [h]

/-- `setIem` leaves all but the control word, IR, B and `pending`. -/
theorem State.setIem_eq (s : State) (b : Bool) :
    s.setIem b = { s with
      cw := { s.cw with iem := b }
      pending := (s.setIem b).pending
      sw := { s.sw with ir := (s.setIem b).sw.ir, busy := (s.setIem b).sw.busy } } := by
  unfold State.setIem
  split <;> rfl

theorem OthersKept.setIem (s : State) (b : Bool) : OthersKept s (s.setIem b) := by
  rw [State.setIem_eq]; exact ⟨rfl, rfl, rfl, rfl, rfl, rfl, rfl, rfl⟩

theorem OthersKept.react {s t : State} (h : OthersKept s t) : OthersKept s t.react :=
  h.trans ⟨rfl, rfl, rfl, rfl, rfl, rfl, rfl, rfl⟩

/-! ### The other agents' state -/

/-- All instructions but FINIT and FSAVE leave what belongs to the other agents. -/
theorem exec_others {i : Instr} {s t : State} (h : exec i s = .next t) (hf : i ≠ .finit)
    (hs : ∀ m, i ≠ .fsave m) : OthersKept s t := by
  by_cases hx : executorOf i = .neu
  · obtain ⟨ex, code, u, he, rfl | rfl⟩ := (exec_neu i s t hx h).runs
    · exact ((OthersKept.begin s _).trans he.others).trans (.conclude ..)
    · exact ((OthersKept.begin s _).trans he.others).trans (.endQuiet u)
  · cases i with
    | finit => exact absurd rfl hf
    | fdisi | feni => obtain rfl := Host.Outcome.next.inj h; exact (OthersKept.begin s _).trans (.setIem ..)
    | fclex => obtain rfl := Host.Outcome.next.inj h; exact ⟨rfl, rfl, rfl, rfl, rfl, rfl, rfl, rfl⟩
    | fldcw m => obtain ⟨-, rfl⟩ := exec_fldcw_next _ _ _ h; exact ⟨rfl, rfl, rfl, rfl, rfl, rfl, rfl, rfl⟩
    | fstcw m => obtain ⟨-, -, rfl⟩ := exec_fstcw_next _ _ _ h; exact ⟨rfl, rfl, rfl, rfl, rfl, rfl, rfl, rfl⟩
    | fstsw m => obtain ⟨-, -, rfl⟩ := exec_fstsw_next _ _ _ h; exact ⟨rfl, rfl, rfl, rfl, rfl, rfl, rfl, rfl⟩
    | fstenv m => obtain ⟨-, -, rfl⟩ := exec_fstenv_next _ _ _ h; exact ⟨rfl, rfl, rfl, rfl, rfl, rfl, rfl, rfl⟩
    | fldenv m => obtain ⟨-, rfl⟩ := exec_fldenv_next _ _ _ h; exact ⟨rfl, rfl, rfl, rfl, rfl, rfl, rfl, rfl⟩
    | fsave m => exact absurd rfl (hs m)
    | frstor m =>
      obtain ⟨-, rfl⟩ := exec_frstor_next _ _ _ h
      have hl : OthersKept s (s.loadEnv (s.ea m).toNat) := ⟨rfl, rfl, rfl, rfl, rfl, rfl, rfl, rfl⟩
      exact (hl.trans (State.loadStack_effect _ _ _).1.others).react
    | fwait => obtain ⟨-, rfl⟩ := exec_fwait_next h; exact .refl _
    | reservedM a b m | reservedR a b k => obtain rfl := Host.Outcome.next.inj h; exact .refl _
    | _ => exact absurd rfl hx

theorem storeStack_conf (s : State) (a n : Nat) :
    (s.storeStack a n).conf = s.conf := by rw [State.storeStack_frame]

/-- No instruction changes the settings. -/
theorem exec_conf {i : Instr} {s t : State} (h : exec i s = .next t) : t.conf = s.conf := by
  by_cases hf : i = .finit
  · subst hf; exact (exec_finit_next h).conf
  · by_cases hs : ∃ m, i = .fsave m
    · obtain ⟨m, rfl⟩ := hs
      exact (exec_fsave_initialized h).conf.trans (storeStack_conf _ _ _)
    · exact (exec_others h hf fun m e => hs ⟨m, e⟩).settings

/-- The running and the queued instruction stay, but for FINIT and FSAVE, after which there is none. -/
theorem exec_jobs {i : Instr} {s t : State} (h : exec i s = .next t) :
    t.neu = s.neu ∧ t.queued = s.queued ∨ t.neu = none ∧ t.queued = none := by
  by_cases hf : i = .finit
  · subst hf; exact .inr ⟨(exec_finit_next h).neu, (exec_finit_next h).queued⟩
  · by_cases hs : ∃ m, i = .fsave m
    · obtain ⟨m, rfl⟩ := hs
      exact .inr ⟨(exec_fsave_initialized h).neu, (exec_fsave_initialized h).queued⟩
    · have ho := exec_others h hf fun m e => hs ⟨m, e⟩
      exact .inl ⟨ho.neu, ho.queue⟩

/-! ### Memory -/

theorem isStore_memOp {i : Instr} (h : isStore i = true) : ∃ m, i.memOp? = some m := by
  cases i with
  | fstM32 m | fstM64 m | fstpM32 m | fstpM64 m | fstpM80 m | fistM16 m | fistM32 m | fistpM16 m | fistpM32 m
  | fistpM64 m | fbstp m | fstcw m | fstsw m | fstenv m | fsave m => exact ⟨m, rfl⟩
  | _ => exact nomatch h

/-- What an instruction does to memory: it stays canonical, and changes within the operand of a store alone. -/
structure MemoryStep (i : Instr) (s t : State) : Prop where
  wf : t.mem.wf = true
  kept : isStore i = false → t.mem = s.mem
  outside : ∀ m, i.memOp? = some m → ∀ x, x < (s.ea m).toNat ∨ (s.ea m).toNat + operandBytes i ≤ x →
    t.mem.read x = s.mem.read x

theorem MemoryStep.of_eq {i : Instr} {s t : State} (hw : s.mem.wf = true) (h : t.mem = s.mem) : MemoryStep i s t :=
  ⟨h ▸ hw, fun _ => h, fun _ _ _ _ => by rw [h]⟩

theorem MemoryStep.of_write {i : Instr} {s t : State} {m : MemOp} {v : Nat} (hw : s.mem.wf = true)
    (hm : i.memOp? = some m) (hi : isStore i = true) (hf : s.Fits m (operandBytes i))
    (h : t.mem = s.mem.writeLE (s.ea m).toNat (operandBytes i) v) : MemoryStep i s t := by
  refine ⟨h ▸ Memory.wf_writeLE _ _ _ _ hf.1 hw, fun hn => absurd (hi.symm.trans hn) (by simp), fun m' hm' x hx => ?_⟩
  obtain rfl := Option.some.inj (hm.symm.trans hm')
  rw [h, Memory.read_writeLE_outside _ _ _ _ _ hf.1 hw hx]

theorem afterFsave_mem (s : State) (m : MemOp) : (s.afterFsave m).mem =
    (((s.begin (some (s.ea m).toNat)).storeEnv (s.ea m).toNat).storeStack ((s.ea m).toNat + 14) 8).mem := by
  unfold State.afterFsave
  rw [State.initialize_mem]

/-- The image of FSAVE fills its 94 bytes: first the environment, then the registers. -/
theorem afterFsave_image (s : State) (m : MemOp) (hw : s.mem.wf = true) (hf : s.Fits m 94) :
    (s.afterFsave m).mem.wf = true ∧
    (∀ x, x < (s.ea m).toNat + 14 ∨ (s.ea m).toNat + 94 ≤ x → (s.afterFsave m).mem.read x =
      (s.mem.writeLE (s.ea m).toNat 14 (s.begin (some (s.ea m).toNat)).envImage.toNat).read x) ∧
    ∀ k, k < 8 → (s.afterFsave m).mem.readLE ((s.ea m).toNat + 14 + 10 * k) 10 = (s.st (BitVec.ofNat 3 k)).toNat := by
  have ha := hf.1
  have henv := Memory.wf_writeLE s.mem (s.ea m).toNat 14 (s.begin (some (s.ea m).toNat)).envImage.toNat (by omega) hw
  rw [afterFsave_mem]
  obtain ⟨h1, h2, h3⟩ := State.storeStack_mem ((s.begin (some (s.ea m).toNat)).storeEnv (s.ea m).toNat)
    ((s.ea m).toNat + 14) 8 (by omega) henv
  exact ⟨h1, fun x hx => h2 x (by omega), h3⟩

theorem afterFsave_memory (s : State) (m : MemOp) (hw : s.mem.wf = true) (hf : s.Fits m 94) :
    MemoryStep (.fsave m) s (s.afterFsave m) := by
  obtain ⟨h1, h2, -⟩ := afterFsave_image s m hw hf
  have ha := hf.1
  refine ⟨h1, fun h => absurd (show true = false from h) (by simp), fun m' hm' x hx => ?_⟩
  obtain rfl : m = m' := Option.some.inj hm'
  change x < _ ∨ _ + 94 ≤ x at hx
  exact (h2 x (by omega)).trans (Memory.read_writeLE_outside _ _ _ _ _ (by omega) hw (by omega))

theorem afterFrstor_mem (s : State) (m : MemOp) : (s.afterFrstor m).mem = s.mem := by
  obtain ⟨-, -, hm, -⟩ := (s.loadEnv (s.ea m).toNat).loadStack_effect ((s.ea m).toNat + 14) 8
  unfold State.afterFrstor
  rw [State.react_mem, hm, State.loadEnv_mem]

/-- Every instruction, from a canonical memory. -/
theorem exec_memory {i : Instr} {s t : State} (h : exec i s = .next t) (hw : s.mem.wf = true) :
    MemoryStep i s t := by
  by_cases hx : executorOf i = .neu
  · have hn := exec_neu i s t hx h
    cases hi : isStore i
    · exact .of_eq hw (hn.kept hi)
    · obtain ⟨m, hm⟩ := isStore_memOp hi
      rcases hn.stored m hm with he | ⟨v, he⟩
      · exact .of_eq hw he
      · exact .of_write hw hm hi (hn.fits m hm) he
  · cases i with
    | finit => exact .of_eq hw (exec_finit_next h).mem
    | fdisi | feni => obtain rfl := Host.Outcome.next.inj h; exact .of_eq hw (by rw [State.setIem_eq]; rfl)
    | fclex => obtain rfl := Host.Outcome.next.inj h; exact .of_eq hw rfl
    | fldcw m => obtain ⟨-, rfl⟩ := exec_fldcw_next _ _ _ h; exact .of_eq hw rfl
    | fstcw m => obtain ⟨hf, -, rfl⟩ := exec_fstcw_next _ _ _ h; exact .of_write hw rfl rfl hf rfl
    | fstsw m => obtain ⟨hf, -, rfl⟩ := exec_fstsw_next _ _ _ h; exact .of_write hw rfl rfl hf rfl
    | fstenv m => obtain ⟨hf, -, rfl⟩ := exec_fstenv_next _ _ _ h; exact .of_write hw rfl rfl hf rfl
    | fldenv m => obtain ⟨-, rfl⟩ := exec_fldenv_next _ _ _ h; exact .of_eq hw rfl
    | fsave m => obtain ⟨hf, -, rfl⟩ := exec_fsave_next _ _ _ h; exact afterFsave_memory s m hw hf
    | frstor m =>
      obtain ⟨-, rfl⟩ := exec_frstor_next _ _ _ h
      exact .of_eq hw (afterFrstor_mem s m)
    | fwait => obtain ⟨-, rfl⟩ := exec_fwait_next h; exact .of_eq hw rfl
    | reservedM a b m | reservedR a b k => obtain rfl := Host.Outcome.next.inj h; exact .of_eq hw rfl
    | _ => exact absurd rfl hx

/-- Settles O19: by what every instruction does to memory. -/
theorem onlyTheOperandIsStored : Obligations.OnlyTheOperandIsStored := by
  intro i s t hinv h
  have hm := exec_memory h hinv.memory
  exact ⟨fun hi x => by rw [hm.kept hi], hm.outside⟩

/-! ### The interrupt state -/

/-- FDISI and FENI under `hold`, FSTCW, FSTSW, WAIT and the reserved opcodes do not react. -/
def doesNotReact : Instr → Bool
  | .fdisi | .feni | .fwait | .fstcw _ | .fstsw _ | .reservedM _ _ _ | .reservedR _ _ _ => true
  | _ => false

/-- Nothing flagged, nothing pending, nothing running. -/
theorem Initialized.reacted {s t : State} (h : Initialized s t) : Reacted t where
  pending := by rw [h.pending, h.ex, ExcSet.unmasked_none, Settings.held_false]
  request := by rw [h.ir, h.ex, ExcSet.unmasked_none, Settings.request_false]
  busy := by rw [h.busy, h.neu, h.pending]; rfl

theorem Reacted.setIem {s : State} (h : Reacted s) (b : Bool) : Reacted (s.setIem b) := by
  cases hc : s.conf.busyWhenIem with
  | hold =>
    rw [s.setIem_hold b hc]
    have held (iem : Bool) : s.conf.held iem (s.sw.ex.unmasked s.cw.masks) = s.sw.ex.unmasked s.cw.masks := by
      unfold Settings.held; rw [hc]
    have request (iem : Bool) : s.conf.request iem (s.sw.ex.unmasked s.cw.masks) = s.sw.ex.unmasked s.cw.masks := by
      unfold Settings.request; rw [hc]
    exact ⟨h.pending.trans ((held _).trans (held b).symm), h.request.trans ((request _).trans (request b).symm), h.busy⟩
  | release ir => rw [s.setIem_release b ir hc]; exact .react _

/-- After every instruction IR, B and `pending` are what flags and masks make them, where they were before one that
does not react. -/
theorem exec_reacted {i : Instr} {s t : State} (h : exec i s = .next t) (hi : doesNotReact i = true → Reacted s) :
    Reacted t := by
  by_cases hx : executorOf i = .neu
  · obtain ⟨ex, code, u, -, rfl | rfl⟩ := (exec_neu i s t hx h).runs
    · exact .conclude ..
    · exact .react u
  · cases i with
    | finit => exact (exec_finit_next h).reacted
    | fdisi | feni =>
      obtain rfl := Host.Outcome.next.inj h
      have hs := hi rfl
      exact Reacted.setIem (s := s.begin none) ⟨hs.pending, hs.request, hs.busy⟩ _
    | fclex => obtain rfl := Host.Outcome.next.inj h; exact .react _
    | fldcw m => obtain ⟨-, rfl⟩ := exec_fldcw_next _ _ _ h; exact .react _
    | fstcw m =>
      obtain ⟨-, -, rfl⟩ := exec_fstcw_next _ _ _ h
      exact ⟨(hi rfl).pending, (hi rfl).request, (hi rfl).busy⟩
    | fstsw m =>
      obtain ⟨-, -, rfl⟩ := exec_fstsw_next _ _ _ h
      exact ⟨(hi rfl).pending, (hi rfl).request, (hi rfl).busy⟩
    | fstenv m => obtain ⟨-, -, rfl⟩ := exec_fstenv_next _ _ _ h; exact .react _
    | fldenv m => obtain ⟨-, rfl⟩ := exec_fldenv_next _ _ _ h; exact .react _
    | fsave m => exact (exec_fsave_initialized h).reacted
    | frstor m => obtain ⟨-, rfl⟩ := exec_frstor_next _ _ _ h; exact .react _
    | fwait => obtain ⟨-, rfl⟩ := exec_fwait_next h; exact hi rfl
    | reservedM a b m | reservedR a b k => obtain rfl := Host.Outcome.next.inj h; exact hi rfl
    | _ => exact absurd rfl hx

theorem Settings.held_of_hold {c : Settings} {iem : Bool} (h : c.busyWhenIem = .hold ∨ iem = false) (u : Bool) :
    c.held iem u = u ∧ c.request iem u = u := by
  unfold Settings.held Settings.request
  rcases h with h | h <;> rw [h]
  · exact ⟨rfl, rfl⟩
  · split <;> simp

theorem Settings.held_of_release {c : Settings} {ir : Bool} (h : c.busyWhenIem = .release ir) (u : Bool) :
    c.held true u = false ∧ c.request true u = (u && ir) := by
  unfold Settings.held Settings.request
  rw [h]
  simp

/-- Settles O16: every such instruction ends in `react()`. -/
theorem ndpReactsAfterEveryInstruction : Obligations.NdpReactsAfterEveryInstruction := by
  intro i s t h hdisi heni hwait hstore hresM hresR
  have hi : doesNotReact i = false := by
    cases i with
    | fdisi => exact absurd rfl hdisi
    | feni => exact absurd rfl heni
    | fwait => exact absurd rfl hwait
    | fstcw m => exact absurd rfl (hstore m).1
    | fstsw m => exact absurd rfl (hstore m).2
    | reservedM a b m => exact absurd rfl (hresM a b m)
    | reservedR a b k => exact absurd rfl (hresR a b k)
    | _ => rfl
  have hr := exec_reacted h fun hc => absurd (hi.symm.trans hc) (by simp)
  refine ⟨fun hc => ?_, fun ir hc hiem => ?_, hr.busy, rfl, rfl⟩
  · obtain ⟨h1, h2⟩ := Settings.held_of_hold hc (t.sw.ex.unmasked t.cw.masks)
    exact ⟨hr.pending.trans h1, hr.request.trans h2⟩
  · obtain ⟨h1, h2⟩ := Settings.held_of_release hc (t.sw.ex.unmasked t.cw.masks)
    exact ⟨hr.pending.trans (hiem ▸ h1), hr.request.trans (hiem ▸ h2)⟩

/-! ### Flags, control word and condition code -/

/-- What an instruction of the NEU adds to the flags; the control word stays. -/
theorem exec_neu_flags {i : Instr} {s t : State} (hx : executorOf i = .neu) (h : exec i s = .next t) :
    (∃ raised, t.sw.ex = s.sw.ex.union raised) ∧ t.cw = s.cw := by
  obtain ⟨ex, code, u, he, rfl | rfl⟩ := (exec_neu i s t hx h).runs
  · exact ⟨⟨ex, congrArg (ExcSet.union · ex) he.ex⟩, he.cw⟩
  · exact ⟨⟨.none, he.ex.trans (ExcSet.union_none _).symm⟩, he.cw⟩

/-- Settles O18: the NEU only adds flags; the others are looked at one by one. -/
theorem flagAndControlWordWriters : Obligations.FlagAndControlWordWriters := by
  intro i s t h hfinit hload
  by_cases hx : executorOf i = .neu
  · obtain ⟨h1, h2⟩ := exec_neu_flags hx h
    exact ⟨fun _ => h1, fun _ _ _ => h2⟩
  · have same (he : t.sw.ex = s.sw.ex) : ∃ raised, t.sw.ex = s.sw.ex.union raised :=
      ⟨.none, he.trans (ExcSet.union_none _).symm⟩
    cases i with
    | finit => exact absurd rfl hfinit
    | fdisi =>
      obtain rfl := Host.Outcome.next.inj h
      exact ⟨fun _ => same (by rw [State.setIem_eq]; rfl), fun hc => absurd rfl hc⟩
    | feni =>
      obtain rfl := Host.Outcome.next.inj h
      exact ⟨fun _ => same (by rw [State.setIem_eq]; rfl), fun _ hc => absurd rfl hc⟩
    | fclex => obtain rfl := Host.Outcome.next.inj h; exact ⟨fun hc => absurd rfl hc, fun _ _ _ => rfl⟩
    | fldcw m =>
      obtain ⟨-, rfl⟩ := exec_fldcw_next _ _ _ h
      exact ⟨fun _ => same rfl, fun _ _ hc => absurd rfl (hc m).1⟩
    | fstcw m => obtain ⟨-, -, rfl⟩ := exec_fstcw_next _ _ _ h; exact ⟨fun _ => same rfl, fun _ _ _ => rfl⟩
    | fstsw m => obtain ⟨-, -, rfl⟩ := exec_fstsw_next _ _ _ h; exact ⟨fun _ => same rfl, fun _ _ _ => rfl⟩
    | fstenv m =>
      obtain ⟨-, -, rfl⟩ := exec_fstenv_next _ _ _ h
      exact ⟨fun _ => same rfl, fun _ _ hc => absurd rfl (hc m).2⟩
    | fldenv m => exact absurd rfl (hload m).2.1
    | fsave m => exact absurd rfl (hload m).1
    | frstor m => exact absurd rfl (hload m).2.2
    | fwait => obtain ⟨-, rfl⟩ := exec_fwait_next h; exact ⟨fun _ => same rfl, fun _ _ _ => rfl⟩
    | reservedM a b m | reservedR a b k =>
      obtain rfl := Host.Outcome.next.inj h; exact ⟨fun _ => same rfl, fun _ _ _ => rfl⟩
    | _ => exact absurd rfl hx

/-- Settles O21: none of these writes the four bits. -/
theorem conditionCodeKeptByControl : Obligations.ConditionCodeKeptByControl := by
  intro i s t h hi
  simp only [List.mem_cons, List.not_mem_nil, or_false] at hi
  rcases hi with (rfl | rfl | rfl | rfl | rfl | rfl | rfl) | ⟨k, rfl⟩ | ⟨m, rfl | rfl | rfl | rfl⟩
  case inr.inr.inl => obtain ⟨-, rfl⟩ := exec_fldcw_next _ _ _ h; rfl
  case inr.inr.inr.inl => obtain ⟨-, -, rfl⟩ := exec_fstcw_next _ _ _ h; rfl
  case inr.inr.inr.inr.inl => obtain ⟨-, -, rfl⟩ := exec_fstsw_next _ _ _ h; rfl
  case inr.inr.inr.inr.inr => obtain ⟨-, -, rfl⟩ := exec_fstenv_next _ _ _ h; rfl
  case inl.inr.inr.inr.inl | inl.inr.inr.inr.inr.inl =>
    obtain rfl := Host.Outcome.next.inj h; rw [State.setIem_eq]; rfl
  case inl.inr.inr.inr.inr.inr.inr => obtain ⟨-, rfl⟩ := exec_fwait_next h; rfl
  all_goals obtain rfl := Host.Outcome.next.inj h; rfl

end Sys2Proof.Machine
end

section
/-! SUPPORT. The status, control and tag words bit by bit (spec/10_state.md R30, R39, R44): what a word holds of the
state, and that reading it back gives the state again. -/

namespace Sys2Proof.Machine


theorem ExcSet.ofBits_toBits (x : ExcSet) : ExcSet.ofBits x.toBits = x := by
  obtain ⟨i, d, z, o, u, p⟩ := x
  revert i d z o u p; decide
theorem ExcSet.toBits_ofBits (b : BitVec 6) : (ExcSet.ofBits b).toBits = b := by
  revert b; decide

/-- The sixteen bits of the control word (10_state.md R39). -/
theorem Control.getLsbD_toBits (c : Control) (i : Nat) (h : i < 16) : c.toBits.getLsbD i =
    if i < 6 then c.masks.toBits.getLsbD i else if i < 7 then c.rsv.getLsbD 0 else if i < 8 then c.iem
    else if i < 10 then c.pc.getLsbD (i - 8) else if i < 12 then c.rc.getLsbD (i - 10) else if i < 13 then c.ic
    else c.rsv.getLsbD (i - 12) := by
  unfold Control.toBits
  change BitVec.getLsbD (w := 3 + 1 + 2 + 2 + 1 + 1 + 6) _ i = _
  simp only [BitVec.getLsbD_append, BitVec.getLsbD_extractLsb', BitVec.getLsbD_ofBool]
  interval_cases i <;> simp

/-- The sixteen bits of the status word (R30). -/
theorem Status.getLsbD_toBits (w : Status) (bit6 : Bool) (i : Nat) (h : i < 16) : (w.toBits bit6).getLsbD i =
    if i < 6 then w.ex.toBits.getLsbD i else if i < 7 then bit6 else if i < 8 then w.ir
    else if i < 9 then w.c0 else if i < 10 then w.c1 else if i < 11 then w.c2
    else if i < 14 then w.top.getLsbD (i - 11) else if i < 15 then w.c3 else w.busy := by
  unfold Status.toBits
  change BitVec.getLsbD (w := 1 + 1 + 3 + 1 + 1 + 1 + 1 + 1 + 6) _ i = _
  simp only [BitVec.getLsbD_append, BitVec.getLsbD_ofBool]
  interval_cases i <;> simp

theorem Control.rsv_ofBits (b : Word) (i : Nat) : (Control.ofBits b).rsv.getLsbD i =
    if i < 1 then (b.extractLsb' 6 1).getLsbD i else (b.extractLsb' 13 3).getLsbD (i - 1) :=
  BitVec.getLsbD_append

theorem Control.toBits_ofBits (b : Word) : (Control.ofBits b).toBits = b := by
  refine BitVec.eq_of_getLsbD_eq fun i hi => ?_
  rw [Control.getLsbD_toBits _ i hi]
  simp only [Control.rsv_ofBits]
  simp only [Control.ofBits, ExcSet.toBits_ofBits, BitVec.getLsbD_extractLsb']
  interval_cases i <;> simp

theorem Control.ofBits_toBits (c : Control) : Control.ofBits c.toBits = c := by
  have hm : c.toBits.extractLsb' 0 6 = c.masks.toBits := BitVec.extractLsb'_append_eq_right
  have hr : (Control.ofBits c.toBits).rsv = c.rsv := by
    refine BitVec.eq_of_getLsbD_eq fun i hi => ?_
    rw [Control.rsv_ofBits]
    interval_cases i <;> simp [BitVec.getLsbD_extractLsb', Control.getLsbD_toBits, -BitVec.getLsbD_eq_getElem]
  have hrc : c.toBits.extractLsb' 10 2 = c.rc := by
    refine BitVec.eq_of_getLsbD_eq fun i hi => ?_
    rw [BitVec.getLsbD_extractLsb', Control.getLsbD_toBits _ _ (by omega)]
    interval_cases i <;> simp
  have hpc : c.toBits.extractLsb' 8 2 = c.pc := by
    refine BitVec.eq_of_getLsbD_eq fun i hi => ?_
    rw [BitVec.getLsbD_extractLsb', Control.getLsbD_toBits _ _ (by omega)]
    interval_cases i <;> simp
  refine Eq.trans ?_ (show (⟨c.ic, c.rc, c.pc, c.iem, c.masks, c.rsv⟩ : Control) = c from rfl)
  rw [← hr]
  simp only [Control.ofBits, hm, hrc, hpc, ExcSet.ofBits_toBits, Control.getLsbD_toBits _ 12 (by decide), Control.getLsbD_toBits _ 7 (by decide)]
  rfl

theorem Status.ofBits_toBits (w : Status) (bit6 : Bool) : Status.ofBits (w.toBits bit6) = w := by
  have hm : (w.toBits bit6).extractLsb' 0 6 = w.ex.toBits := BitVec.extractLsb'_append_eq_right
  have ht : (w.toBits bit6).extractLsb' 11 3 = w.top := by
    refine BitVec.eq_of_getLsbD_eq fun i hi => ?_
    rw [BitVec.getLsbD_extractLsb', Status.getLsbD_toBits _ _ _ (by omega)]
    interval_cases i <;> simp
  have hb (i : Nat) (h : i < 16) := Status.getLsbD_toBits w bit6 i h
  simp only [Status.ofBits, hm, ht, ExcSet.ofBits_toBits, hb 15 (by decide), hb 14 (by decide), hb 10 (by decide),
    hb 9 (by decide), hb 8 (by decide), hb 7 (by decide)]
  rfl

theorem Tag.ofBits_toBits (t : Tag) : Tag.ofBits t.toBits = t := by cases t <;> rfl
theorem Tag.toBits_ofBits (b : BitVec 2) : (Tag.ofBits b).toBits = b := by revert b; decide

theorem tagWord_field (t : Vector Tag 8) (k : Fin 8) : (tagWord t).extractLsb' (2 * k) 2 = t[k].toBits := by
  refine BitVec.eq_of_getLsbD_eq fun i hi => ?_
  unfold tagWord
  rw [BitVec.getLsbD_extractLsb']
  change (_ && BitVec.getLsbD (w := 2 + 2 + 2 + 2 + 2 + 2 + 2 + 2) _ _) = _
  simp only [BitVec.getLsbD_append]
  fin_cases k <;> interval_cases i <;> simp

/-- Bit 7 of the control word is the interrupt enable mask: it is set and cleared alone (R421, R422). -/
theorem Control.toBits_setIem (c : Control) :
    ({ c with iem := true } : Control).toBits = c.toBits ||| 0x0080#16 ∧
      ({ c with iem := false } : Control).toBits = c.toBits &&& 0xFF7F#16 := by
  constructor
  all_goals
    refine BitVec.eq_of_getLsbD_eq fun i hi => ?_
    simp only [BitVec.getLsbD_or, BitVec.getLsbD_and, Control.getLsbD_toBits _ i hi]
    interval_cases i <;> simp

theorem tagsOfWord_get (w : Word) (p : Fin 8) : (tagsOfWord w).get p = Tag.ofBits (w.extractLsb' (2 * p) 2) := by
  fin_cases p <;> rfl

theorem tagsOfWord_tagWord (t : Vector Tag 8) : tagsOfWord (tagWord t) = t := by
  refine Vector.ext fun i hi => ?_
  have h := tagsOfWord_get (tagWord t) ⟨i, hi⟩
  rw [tagWord_field, Tag.ofBits_toBits] at h
  exact h

/-- What a loaded control word says, but for its reserved bits (R39, R47). -/
theorem Control.load_fields (kept : ReservedBits) (b : Word) (free : BitVec 4) :
    (Control.load kept b free).ic = b.getLsbD 12 ∧ (Control.load kept b free).rc = b.extractLsb' 10 2 ∧
    (Control.load kept b free).pc = b.extractLsb' 8 2 ∧ (Control.load kept b free).iem = b.getLsbD 7 ∧
    (Control.load kept b free).masks.toBits = b.extractLsb' 0 6 ∧
    (kept = .stored → (Control.load kept b free).toBits = b) := by
  rw [Control.load_eq]
  refine ⟨rfl, rfl, rfl, rfl, ExcSet.toBits_ofBits _, fun h => ?_⟩
  subst h
  exact Control.toBits_ofBits b

end Sys2Proof.Machine
end

section
/-! SUPPORT. The instructions of the control unit: initialization, the interrupt enable mask, the words and images
in memory (spec/46_processor_control.md). -/

namespace Sys2Proof.Machine

/-! ### The exception pointers -/

theorem Recorded.of_eq {s t u : State} {ea : Option Addr} (h : Recorded s u ea) (h1 : t.iptr = u.iptr)
    (h2 : t.opc = u.opc) (h3 : t.dptr = u.dptr) : Recorded s t ea :=
  ⟨h1.trans h.instruction, h2.trans h.opcode, h3.trans h.operand⟩

theorem Recorded.begin_operand (s : State) (m : MemOp) :
    Recorded s (s.begin (some (s.ea m).toNat)) (some (s.ea m)) := Recorded.begin s (some (s.ea m))

theorem Recorded.setIem (s : State) (b : Bool) : Recorded s ((s.begin none).setIem b) none := by
  unfold State.setIem
  split <;> exact (Recorded.begin s none).of_eq rfl rfl rfl

/-- The pointers that an instruction leaves, read as the statements write them. -/
theorem Recorded.pointers {s t : State} {i : Instr} (h : Recorded s t (i.memOp?.map s.ea))
    (hx : executorOf i ≠ .nobody) :
    if executorOf i ≠ .nobody ∧ s.recordsPointers = true then
      t.iptr = s.port.ia ∧ t.opc = s.port.op ∧ t.dptr = (i.memOp?.map s.ea).getD s.dptr
    else t.iptr = s.iptr ∧ t.opc = s.opc ∧ t.dptr = s.dptr := by
  obtain ⟨h1, h2, h3⟩ := h
  cases hr : s.recordsPointers <;> rw [hr] at h1 h2 h3
  · rw [if_neg (by simp)]; exact ⟨h1, h2, h3⟩
  · rw [if_pos ⟨hx, rfl⟩]; exact ⟨h1, h2, h3⟩

/-- Every instruction but FLDENV and FRSTOR that somebody executes records itself. -/
theorem exec_recorded {i : Instr} {s t : State} (h : exec i s = .next t) (hx : executorOf i ≠ .nobody)
    (hl : ∀ m, i ≠ .fldenv m ∧ i ≠ .frstor m) : Recorded s t (i.memOp?.map s.ea) := by
  by_cases hn : executorOf i = .neu
  · obtain ⟨ex, code, u, he, rfl | rfl⟩ := (exec_neu i s t hn h).runs
    all_goals exact (Recorded.begin s _).of_eq he.iptr he.opc he.dptr
  · cases i with
    | finit | fclex => obtain rfl := Host.Outcome.next.inj h; exact (Recorded.begin s none).of_eq rfl rfl rfl
    | fdisi | feni => obtain rfl := Host.Outcome.next.inj h; exact .setIem s _
    | fldcw m => obtain ⟨-, rfl⟩ := exec_fldcw_next _ _ _ h; exact (Recorded.begin_operand s m).of_eq rfl rfl rfl
    | fstcw m => obtain ⟨-, -, rfl⟩ := exec_fstcw_next _ _ _ h; exact (Recorded.begin_operand s m).of_eq rfl rfl rfl
    | fstsw m => obtain ⟨-, -, rfl⟩ := exec_fstsw_next _ _ _ h; exact (Recorded.begin_operand s m).of_eq rfl rfl rfl
    | fstenv m => obtain ⟨-, -, rfl⟩ := exec_fstenv_next _ _ _ h; exact (Recorded.begin_operand s m).of_eq rfl rfl rfl
    | fsave m =>
      have hi := exec_fsave_initialized h
      rw [State.storeStack_frame] at hi
      exact (Recorded.begin_operand s m).of_eq hi.iptr hi.opc hi.dptr
    | fldenv m => exact absurd rfl (hl m).1
    | frstor m => exact absurd rfl (hl m).2
    | fwait | reservedM | reservedR => exact absurd rfl hx
    | _ => exact absurd rfl hn

/-- What nobody executes leaves the pointers. -/
theorem exec_nobody {i : Instr} {s t : State} (h : exec i s = .next t) (hx : executorOf i = .nobody) : t = s := by
  cases i with
  | fwait => exact (exec_fwait_next h).2
  | reservedM a b m | reservedR a b k => exact (Host.Outcome.next.inj h).symm
  | _ => exact absurd hx (by simp [executorOf])

/-- The instruction is outside the set exactly where an entry matches its opcode. -/
theorem recordsPointers_eq_false {i k : Instr} {s : State} (hw : i.wf = true) (hp : s.port.op = opcode11 (encode i))
    (hk : s.conf.resolve i = some k) :
    s.recordsPointers = false ↔ ∃ x ∈ s.conf.ptrKeep, opcode11 (encode k) &&& x.1 = x.2 := by
  unfold State.recordsPointers
  rw [hp, Settings.standsFor_encode _ i k hw hk]
  simp

/-- The entry of `ptrKeep` by the recommended settings that matches an opcode. -/
def keptByRecommended (op : BitVec 11) : Bool :=
  Settings.recommended.ptrKeep.any fun x => decide (op &&& x.1 = x.2)

/-- In the memory format they are the cells 4 to 7 of D9 and DD, whatever the operand. -/
theorem keptByRecommended_encM (a b : BitVec 3) (m : MemOp) : keptByRecommended (opcode11 (encM a b m)) =
    decide ((a = 1 ∨ a = 5) ∧ 4 ≤ b) := by
  have h : ∀ (a : BitVec 3) (md : BitVec 2) (b r : BitVec 3), md ≠ 3 → keptByRecommended (a ++ (md ++ b ++ r)) =
      decide ((a = 1 ∨ a = 5) ∧ 4 ≤ b) := by decide +kernel
  rw [opcode11_encM]
  exact h a (memMod m) b (memRm m) (memMod_ne m)

/-- In the register format they are DB E0 to DB E3. -/
theorem keptByRecommended_encR (a b i : BitVec 3) : keptByRecommended (opcode11 (encR a b i)) =
    decide (a = 3 ∧ b = 4 ∧ i < 4) := by
  revert a b i; decide +kernel

/-- The recommended set is that of R51: the instructions of the NEU record, the others do not. -/
theorem keptByRecommended_encode (k : Instr) (hx : executorOf k ≠ .nobody) :
    keptByRecommended (opcode11 (encode k)) = decide (executorOf k ≠ .neu) := by
  cases k with
  | fwait | reservedM | reservedR => exact absurd rfl hx
  | _ =>
    rw [encode]
    first
      | (rw [keptByRecommended_encM]; rfl)
      | (rw [keptByRecommended_encR]; simp [executorOf])

/-- Settles O20: an instruction that somebody executes records itself where it starts; which opcodes the settings
leave out is read off the opcode of what a reserved opcode stands for. -/
theorem exceptionPointerWriters : Obligations.ExceptionPointerWriters := by
  refine ⟨fun i s t h hl => ?_, fun i k s hw hp hk => ⟨recordsPointers_eq_false hw hp hk, fun hc => ?_⟩⟩
  · by_cases hx : executorOf i = .nobody
    · rw [exec_nobody h hx, if_neg (fun hc => hc.1 hx)]
      exact ⟨rfl, rfl, rfl⟩
    · exact (exec_recorded h hx hl).pointers hx
  · have hkept (hx : executorOf k ≠ .nobody) : s.recordsPointers = false ↔ executorOf k ≠ .neu := by
      have he := keptByRecommended_encode k hx
      rw [recordsPointers_eq_false hw hp hk, hc, ← decide_eq_true_iff (p := executorOf k ≠ .neu), ← he]
      simp [keptByRecommended]
    refine ⟨fun hx => ?_, fun hx => ?_⟩
    · refine Bool.not_eq_false _ |>.mp fun hf => ?_
      exact (hkept (by rw [hx]; decide)).mp hf hx
    · rcases hx with hx | hx | hx
      all_goals exact (hkept (by rw [hx]; decide)).mpr (by rw [hx]; decide)

/-! ### Initialization, the interrupt enable mask, and the stack pointer -/

/-- What `setIem` leaves, as the statement of FDISI and FENI says it. -/
theorem setIem_others (s : State) (b : Bool) :
    let t := (s.begin none).setIem b
    t = { s with cw := t.cw, sw := t.sw, pending := t.pending, iptr := t.iptr, opc := t.opc, dptr := t.dptr } ∧
    Recorded s t none ∧ t.sw = { s.sw with ir := t.sw.ir, busy := t.sw.busy } ∧
    (s.conf.busyWhenIem = .hold → t.sw = s.sw ∧ t.pending = s.pending ∧ t.busyLine = s.busyLine) ∧
    ∀ ir, s.conf.busyWhenIem = .release ir → Reacted t := by
  refine ⟨?_, .setIem s b, ?_, fun hc => ?_, fun ir hc => ?_⟩
  · rw [State.setIem_eq]; rfl
  · rw [State.setIem_eq]; rfl
  · rw [(s.begin none).setIem_hold b hc]; exact ⟨rfl, rfl, rfl⟩
  · rw [(s.begin none).setIem_release b ir hc]; exact .react _

theorem setIem_cw (s : State) (b : Bool) : (s.setIem b).cw = { s.cw with iem := b } := by
  rw [State.setIem_eq]

/-- Settles O17: both instructions are `setIem`. -/
theorem interruptEnableMask : Obligations.InterruptEnableMask := by
  intro s
  have hcw (b : Bool) : ((s.begin none).setIem b).cw = { s.cw with iem := b } := setIem_cw _ b
  refine ⟨⟨_, exec_fdisi s, hcw true, ?_, ?_, setIem_others s true⟩, ⟨_, exec_feni s, hcw false, ?_, ?_,
    setIem_others s false⟩, ?_, fun bit6 => ?_⟩
  · rw [hcw]; exact (Control.toBits_setIem s.cw).1
  · rw [State.intLine, hcw]; simp
  · rw [hcw]; exact (Control.toBits_setIem s.cw).2
  · rw [State.intLine, hcw]; simp
  · rw [Control.getLsbD_toBits _ _ (by decide)]; rfl
  · rw [Status.getLsbD_toBits _ _ _ (by decide)]; rfl

/-- Settles O45: both are written out in the model; FCLEX leaves no flag that could be unmasked. -/
theorem initializeAndClear : Obligations.InitializeAndClear := by
  intro s
  refine ⟨⟨_, rfl, ?_⟩, _, exec_fclex s, ?_, (Recorded.begin s none).of_eq rfl rfl rfl, ?_, ?_⟩
  · have h := exec_finit_next (s := s) rfl
    refine ⟨by rw [h.cw]; rfl, by rw [h.tags]; rfl, h.top, h.ex, h.ir, h.busy, h.neu, h.pending, h.queued, ?_, ?_,
      h.regs, (Recorded.begin s none).of_eq h.iptr h.opc h.dptr, h.port, h.inbox, h.mem, h.conf, h.code, h.cpuData,
      h.storing⟩
    · rw [State.busyLine, h.neu, h.pending]; rfl
    · rw [State.intLine, h.ir]; rfl
  all_goals
    simp only [State.clearExceptions, State.react, State.intLine, State.busyLine, ExcSet.unmasked_none,
      Settings.held_false, Settings.request_false, Bool.or_false, Bool.false_and]
    try rfl

theorem toNat_top_add_one (top : BitVec 3) : (top + 1).toNat = (top.toNat + 1) % 8 := by
  rw [BitVec.toNat_add]; rfl

/-- Settles O44: FINCSTP writes TOP alone, FNOP nothing, and both end quietly. -/
theorem incrementAndNoOperation : Obligations.IncrementAndNoOperation := by
  refine ⟨rfl, rfl, fun s => ⟨⟨_, rfl, ?_⟩, _, rfl, ?_⟩⟩
  · exact ⟨Ran.of_endQuiet (s := s) (ea := none) (Effect.setTop ..), fun x => rfl, toNat_top_add_one _, fun p => rfl,
      fun p => rfl⟩
  · exact ⟨Ran.of_endQuiet (s := s) (ea := none) (Effect.refl _), fun x => rfl, ⟨rfl, fun p => rfl, fun p => rfl⟩, rfl⟩

end Sys2Proof.Machine
end

section
/-! SUPPORT. The words and images that the control instructions store in memory and load from it
(spec/10_state.md R53, R54; spec/46_processor_control.md section 2). -/

namespace Sys2Proof.Machine

/-! ### Memory: stored values read back -/

/-- A value read depends on the bytes it is made of. -/
theorem Memory.readLE_congr {m m' : Memory} {a n : Nat} (h : ∀ x, a ≤ x → x < a + n → m.read x = m'.read x) :
    m.readLE a n = m'.readLE a n := by
  induction n generalizing a with
  | zero => rfl
  | succ n ih =>
    rw [Memory.readLE, Memory.readLE, h a le_rfl (by omega), ih fun x h1 h2 => h x (by omega) (by omega)]

theorem MemoryStored.of_writeLE {s t : State} {a n v : Nat} (ha : a + n ≤ 2 ^ 20) (hw : s.mem.wf = true)
    (h : t.mem = s.mem.writeLE a n v) : MemoryStored s t a n v := by
  refine ⟨fun k hk => ?_, fun x hx => ?_⟩
  · rw [h, Memory.read_writeLE_inside _ _ _ _ _ ha hw hk]
  · rw [h, Memory.read_writeLE_outside _ _ _ _ _ ha hw hx]

/-! ### The environment image -/

theorem toNat_append_add {n m : Nat} (x : BitVec n) (y : BitVec m) : (x ++ y).toNat = x.toNat * 2 ^ m + y.toNat := by
  rw [BitVec.toNat_append, ← Nat.shiftLeft_add_eq_or_of_lt y.isLt, Nat.shiftLeft_eq]

theorem split_address (a : Addr) : (a.extractLsb' 16 4).toNat = a.toNat / 2 ^ 16 ∧
    (a.extractLsb' 0 16).toNat = a.toNat % 2 ^ 16 := by
  have := a.isLt
  simp only [BitVec.extractLsb'_toNat, Nat.shiftRight_eq_div_pow]
  omega

/-- The seven words of R53. -/
def State.envWord (s : State) : Nat → Nat
  | 0 => s.cw.toBits.toNat
  | 1 => s.statusWord.toNat
  | 2 => (tagWord s.tags).toNat
  | 3 => s.iptr.toNat % 2 ^ 16
  | 4 => s.iptr.toNat / 2 ^ 16 * 2 ^ 12 + s.opc.toNat
  | 5 => s.dptr.toNat % 2 ^ 16
  | _ => s.dptr.toNat / 2 ^ 16 * 2 ^ 12

theorem State.envWord_lt (s : State) (k : Nat) : s.envWord k < 2 ^ 16 := by
  have := s.iptr.isLt
  have := s.dptr.isLt
  have := s.opc.isLt
  unfold State.envWord
  split
  case h_1 | h_2 | h_3 => exact BitVec.isLt _
  all_goals omega

theorem State.envImage_toNat (s : State) : s.envImage.toNat =
    (((((s.envWord 6 * 2 ^ 16 + s.envWord 5) * 2 ^ 16 + s.envWord 4) * 2 ^ 16 + s.envWord 3) * 2 ^ 16 +
      s.envWord 2) * 2 ^ 16 + s.envWord 1) * 2 ^ 16 + s.envWord 0 := by
  obtain ⟨hd1, hd0⟩ := split_address s.dptr
  obtain ⟨hi1, hi0⟩ := split_address s.iptr
  unfold State.envImage
  simp only [toNat_append_add, hd1, hd0, hi1, hi0, State.envWord]
  simp only [BitVec.ofNat_eq_ofNat, BitVec.toNat_ofNat]
  omega

/-- Each word of the image read back. -/
theorem readLE_envImage (s : State) (mem : Memory) (a k : Nat) (ha : a + 14 ≤ 2 ^ 20) (hw : mem.wf = true)
    (hk : k < 7) : (mem.writeLE a 14 s.envImage.toNat).readLE (a + 2 * k) 2 = s.envWord k := by
  have h (j : Nat) := s.envWord_lt j
  have h0 := h 0
  have h1 := h 1
  have h2 := h 2
  have h3 := h 3
  have h4 := h 4
  have h5 := h 5
  have h6 := h 6
  rw [Memory.readLE_writeLE_within _ _ _ _ _ _ ha hw (by omega), State.envImage_toNat]
  interval_cases k <;> omega

/-- A memory holds the environment image of a state at an address. -/
def EnvironmentAt (mem : Memory) (a : Nat) (s : State) : Prop := ∀ k, k < 7 → mem.readLE (a + 2 * k) 2 = s.envWord k

/-- The image word by word, as R53 lists it. -/
theorem EnvironmentAt.words {mem : Memory} {a : Nat} {s : State} (h : EnvironmentAt mem a s) :
    mem.readLE a 2 = s.cw.toBits.toNat ∧ (∃ bit6, mem.readLE (a + 2) 2 = (s.sw.toBits bit6).toNat) ∧
    mem.readLE (a + 4) 2 = (tagWord s.tags).toNat ∧ mem.readLE (a + 6) 2 = s.iptr.toNat % 2 ^ 16 ∧
    mem.readLE (a + 8) 2 = s.iptr.toNat / 2 ^ 16 * 2 ^ 12 + s.opc.toNat ∧
    mem.readLE (a + 10) 2 = s.dptr.toNat % 2 ^ 16 ∧ mem.readLE (a + 12) 2 = s.dptr.toNat / 2 ^ 16 * 2 ^ 12 :=
  ⟨h 0 (by decide), ⟨_, h 1 (by decide)⟩, h 2 (by decide), h 3 (by decide), h 4 (by decide), h 5 (by decide),
    h 6 (by decide)⟩

theorem EnvironmentAt.congr {mem mem' : Memory} {a : Nat} {s : State} (h : EnvironmentAt mem a s)
    (hm : ∀ x, x < a + 14 → mem'.read x = mem.read x) : EnvironmentAt mem' a s := fun k hk =>
  (Memory.readLE_congr fun x _ _ => hm x (by omega)).trans (h k hk)

/-- The environment that FSAVE and FSTENV store shows their own exception pointers, where they record them. -/
theorem environmentAt_begin (s : State) (m : MemOp) (hw : s.mem.wf = true) (ha : (s.ea m).toNat + 14 ≤ 2 ^ 20) :
    EnvironmentAt (s.mem.writeLE (s.ea m).toNat 14 (s.begin (some (s.ea m).toNat)).envImage.toNat) (s.ea m).toNat
      (s.begin (some (s.ea m).toNat)) := fun k hk => readLE_envImage _ _ _ k ha hw hk

/-! ### The statements about the words -/

/-- Settles O46: the control word is loaded, then `react()` runs. -/
theorem loadControlWord : Obligations.LoadControlWord := by
  intro s m hf
  obtain ⟨h1, h2, h3, h4, h5, h6⟩ := Control.load_fields s.conf.cwReserved
    (BitVec.ofNat 16 (s.mem.readLE (s.ea m).toNat 2)) (Config.freeControlBits s.draws)
  refine ⟨_, exec_fldcw s m hf, h1, h2, h3, h4, h5, h6, .react _, ?_, rfl, rfl, rfl, rfl, rfl,
    (Recorded.begin_operand s m).of_eq rfl rfl rfl, exec_others (exec_fldcw s m hf) (by simp) (by simp), rfl⟩
  exact congrArg (fun b => _ && !b) h4

/-- Settles O47: each stores one word and records itself. -/
theorem storeControlAndStatusWord : Obligations.StoreControlAndStatusWord := by
  intro s m hinv hf hw
  refine ⟨⟨_, exec_fstcw s m hf hw, .of_writeLE hf.1 hinv.memory rfl,
    (Recorded.begin_operand s m).of_eq rfl rfl rfl, rfl⟩, _, exec_fstsw s m hf hw,
    ⟨_, .of_writeLE hf.1 hinv.memory rfl⟩, (Recorded.begin_operand s m).of_eq rfl rfl rfl, rfl⟩

theorem ExcSet.unmasked_all (x : ExcSet) : x.unmasked .all = false := by
  simp [ExcSet.unmasked, ExcSet.all]

/-- Settles O48: the image is stored before the masks are set, so that nothing is unmasked at the end. -/
theorem storeEnvironment : Obligations.StoreEnvironment := by
  intro s m hinv hf hw
  have henv : EnvironmentAt (s.afterFstenv m).mem _ _ := environmentAt_begin s m hinv.memory hf.1
  obtain ⟨h1, h2, h3, h4, h5, h6, h7⟩ := henv.words
  have hout (x : Nat) (hx : x < (s.ea m).toNat ∨ (s.ea m).toNat + 14 ≤ x) :
      (s.afterFstenv m).mem.read x = s.mem.read x := Memory.read_writeLE_outside _ _ _ _ _ hf.1 hinv.memory hx
  have hreact : Reacted (s.afterFstenv m) := .react _
  have hunm : (s.afterFstenv m).sw.ex.unmasked (s.afterFstenv m).cw.masks = false := ExcSet.unmasked_all _
  have hpending : (s.afterFstenv m).pending = false := by rw [hreact.pending, hunm, Settings.held_false]
  refine ⟨_, exec_fstenv s m hf hw, h1, h2, h3, h4, h5, h6, h7, hout, rfl, hpending, ?_, ?_, rfl, rfl, rfl, rfl, rfl,
    (Recorded.begin_operand s m).of_eq rfl rfl rfl, exec_others (exec_fstenv s m hf hw) (by simp) (by simp)⟩
  · rw [hreact.request, hunm, Settings.request_false]
  · rw [hreact.busy, hpending, Bool.or_false]; rfl

/-! ### Loading an image -/

/-- The exception pointers are loaded last and stay. -/
theorem afterFldenv_pointers (s : State) (m : MemOp) :
    (s.afterFldenv m).iptr = (s.loadEnv (s.ea m).toNat).iptr ∧
    (s.afterFldenv m).opc = (s.loadEnv (s.ea m).toNat).opc ∧
    (s.afterFldenv m).dptr = (s.loadEnv (s.ea m).toNat).dptr := ⟨rfl, rfl, rfl⟩

/-- FRSTOR leaves what FLDENV leaves of the image, but for the registers. -/
theorem afterFrstor_image (s : State) (m : MemOp) :
    (s.afterFrstor m).cw = (s.afterFldenv m).cw ∧ (s.afterFrstor m).sw = (s.afterFldenv m).sw ∧
    (s.afterFrstor m).pending = (s.afterFldenv m).pending ∧
    (∀ p, (s.afterFrstor m).tag p = (s.afterFldenv m).tag p) ∧ (s.afterFrstor m).iptr = (s.afterFldenv m).iptr ∧
    (s.afterFrstor m).opc = (s.afterFldenv m).opc ∧ (s.afterFrstor m).dptr = (s.afterFldenv m).dptr := by
  obtain ⟨he, hsw, -, htag⟩ := (s.loadEnv (s.ea m).toNat).loadStack_effect ((s.ea m).toNat + 14) 8
  unfold State.afterFrstor State.afterFldenv
  generalize State.loadStack _ _ 8 = u at he hsw htag
  refine ⟨he.cw, ?_, ?_, htag, he.iptr, he.opc, he.dptr⟩
  · simp only [State.react, hsw, he.cw, he.others.settings, he.others.neu]
  · simp only [State.react, hsw, he.cw, he.others.settings]

/-- The registers that FRSTOR loads, by their distance from the new top. -/
theorem afterFrstor_st (s : State) (m : MemOp) (k : BitVec 3) : (s.afterFrstor m).st k =
    BitVec.ofNat 80 (s.mem.readLE ((s.ea m).toNat + 14 + 10 * k.toNat) 10) := by
  have h := (s.loadEnv (s.ea m).toNat).loadStack_st ((s.ea m).toNat + 14) 8 k.toNat le_rfl k.isLt
  rw [BitVec.ofNat_toNat, BitVec.setWidth_eq] at h
  unfold State.afterFrstor
  generalize State.loadStack _ _ 8 = u at h
  exact h

/-- Settles O49: every field of the image is read off its word; FRSTOR adds the registers. -/
theorem loadEnvironmentAndState : Obligations.LoadEnvironmentAndState := by
  intro s m a w Loaded
  have htags (p : BitVec 3) : ((s.afterFldenv m).tag p).toBits = (w 2).extractLsb' (2 * p.toNat) 2 := by
    have h : (s.afterFldenv m).tag p = Tag.ofBits ((w 2).extractLsb' (2 * p.toNat) 2) := tagsOfWord_get (w 2) p.toFin
    rw [h, Tag.toBits_ofBits]
  obtain ⟨h1, h2, h3, h4, h5, h6⟩ := Control.load_fields s.conf.cwReserved (w 0) (Config.freeControlBits s.draws)
  refine ⟨fun hf => ⟨_, exec_fldenv s m hf, ⟨h1, h2, h3, h4, h5, h6, rfl, rfl, rfl, rfl, rfl, ExcSet.toBits_ofBits _,
    htags, rfl, rfl, rfl, .react _, exec_others (exec_fldenv s m hf) (by simp) (by simp), rfl⟩, rfl⟩, fun hf => ?_⟩
  obtain ⟨hcw, hsw, -, htag, hiptr, hopc, hdptr⟩ := afterFrstor_image s m
  refine ⟨_, exec_frstor s m hf, ?_, afterFrstor_st s m⟩
  unfold Loaded
  rw [hcw, hsw, hiptr, hopc, hdptr]
  exact ⟨h1, h2, h3, h4, h5, h6, rfl, rfl, rfl, rfl, rfl, ExcSet.toBits_ofBits _, fun p => by rw [htag]; exact htags p,
    rfl, rfl, rfl, .react _, exec_others (exec_frstor s m hf) (by simp) (by simp), afterFrstor_mem s m⟩

/-! ### Saving the state -/

/-- What FSAVE leaves of the exception pointers. -/
theorem afterFsave_recorded (s : State) (m : MemOp) : Recorded s (s.afterFsave m) (some (s.ea m)) ∧
    (s.afterFsave m).iptr = (s.begin (some (s.ea m).toNat)).iptr ∧
    (s.afterFsave m).opc = (s.begin (some (s.ea m).toNat)).opc ∧
    (s.afterFsave m).dptr = (s.begin (some (s.ea m).toNat)).dptr := by
  unfold State.afterFsave
  rw [State.storeStack_frame]
  exact ⟨(Recorded.begin_operand s m).of_eq rfl rfl rfl, rfl, rfl, rfl⟩

/-- What FSAVE stores first. -/
theorem afterFsave_environment (s : State) (m : MemOp) (hw : s.mem.wf = true) (hf : s.Fits m 94) :
    EnvironmentAt (s.afterFsave m).mem (s.ea m).toNat (s.begin (some (s.ea m).toNat)) :=
  (environmentAt_begin s m hw (by have := hf.1; omega)).congr fun x hx =>
    (afterFsave_image s m hw hf).2.1 x (.inl hx)

/-- FSAVE stores `ST(k)` as the k-th of the registers. -/
theorem afterFsave_register (s : State) (m : MemOp) (hw : s.mem.wf = true) (hf : s.Fits m 94) (k : BitVec 3) :
    (s.afterFsave m).mem.readLE ((s.ea m).toNat + 14 + 10 * k.toNat) 10 = (s.st k).toNat := by
  rw [(afterFsave_image s m hw hf).2.2 k.toNat k.isLt, BitVec.ofNat_toNat, BitVec.setWidth_eq]

/-- Settles O50: the image first, then what FINIT leaves. -/
theorem saveState : Obligations.SaveState := by
  intro s m hinv hf hw
  have hexec := exec_fsave s m hf hw
  have hi := exec_fsave_initialized hexec
  rw [State.storeStack_frame] at hi
  obtain ⟨h1, h2, h3, h4, h5, h6, h7⟩ := (afterFsave_environment s m hinv.memory hf).words
  obtain ⟨hrec, hiptr, hopc, hdptr⟩ := afterFsave_recorded s m
  refine ⟨_, hexec, h1, h2, h3, ?_, ?_, ?_, ?_, afterFsave_register s m hinv.memory hf,
    (afterFsave_memory s m hinv.memory hf).outside m rfl, by rw [hi.cw]; rfl, by rw [hi.tags]; rfl, hi.top, hi.ex, hi.ir,
    hi.busy, hi.neu, hi.pending, hi.queued, hi.regs, hrec, hi.port, hi.inbox, hi.conf, hi.code, hi.cpuData, hi.storing⟩
  · rw [hiptr]; exact h4
  · rw [hiptr, hopc]; exact h5
  · rw [hdptr]; exact h6
  · rw [hdptr]; exact h7

/-! ### Saving and restoring -/

theorem Status.ofBits_statusWord (s : State) : Status.ofBits s.statusWord = s.sw := Status.ofBits_toBits _ _

theorem ofNat_toNat_word (w : Word) : BitVec.ofNat 16 w.toNat = w := by simp

/-- An address from its two words, the higher one with the opcode below it. -/
theorem join_address (a : Addr) (op : BitVec 11) :
    (BitVec.ofNat 16 (a.toNat / 2 ^ 16 * 2 ^ 12 + op.toNat)).extractLsb' 12 4 ++ BitVec.ofNat 16 (a.toNat % 2 ^ 16) = a ∧
    (BitVec.ofNat 16 (a.toNat / 2 ^ 16 * 2 ^ 12 + op.toNat)).extractLsb' 0 11 = op := by
  have ha := a.isLt
  have ho := op.isLt
  constructor
  · refine BitVec.eq_of_toNat_eq ?_
    rw [toNat_append_add, BitVec.extractLsb'_toNat, Nat.shiftRight_eq_div_pow]
    simp only [BitVec.toNat_ofNat]
    omega
  · refine BitVec.eq_of_toNat_eq ?_
    rw [BitVec.extractLsb'_toNat, Nat.shiftRight_eq_div_pow]
    simp only [BitVec.toNat_ofNat]
    omega

/-- Loading the environment image of a state gives its control word, but for the reserved bits, its status word, tags
and exception pointers. -/
theorem loadEnv_of_environmentAt {s t : State} {a : Nat} (h : EnvironmentAt t.mem a s) :
    (t.loadEnv a).cw = Control.load t.conf.cwReserved s.cw.toBits (Config.freeControlBits t.draws) ∧
    (t.loadEnv a).sw = s.sw ∧ (t.loadEnv a).tags = s.tags ∧ (t.loadEnv a).iptr = s.iptr ∧
    (t.loadEnv a).opc = s.opc ∧ (t.loadEnv a).dptr = s.dptr := by
  have hw (k : Nat) (hk : k < 7) : BitVec.ofNat 16 (t.load (a + 2 * k) 2) = BitVec.ofNat 16 (s.envWord k) :=
    congrArg (BitVec.ofNat 16) (h k hk)
  have h0 : BitVec.ofNat 16 (t.load (a + 2 * 0) 2) = s.cw.toBits := (hw 0 (by decide)).trans (ofNat_toNat_word _)
  have h1 : BitVec.ofNat 16 (t.load (a + 2 * 1) 2) = s.statusWord := (hw 1 (by decide)).trans (ofNat_toNat_word _)
  have h2 : BitVec.ofNat 16 (t.load (a + 2 * 2) 2) = tagWord s.tags := (hw 2 (by decide)).trans (ofNat_toNat_word _)
  obtain ⟨hi, ho⟩ := join_address s.iptr s.opc
  have hd := (join_address s.dptr 0).1
  rw [show s.dptr.toNat / 2 ^ 16 * 2 ^ 12 + (0 : BitVec 11).toNat = s.dptr.toNat / 2 ^ 16 * 2 ^ 12 from by simp] at hd
  refine ⟨congrArg (fun b => Control.load _ b _) h0, (congrArg Status.ofBits h1).trans (Status.ofBits_statusWord s),
    (congrArg tagsOfWord h2).trans (tagsOfWord_tagWord _), ?_, ?_, ?_⟩
  · rw [← hi]; exact congrArg₂ (fun x y : Word => x.extractLsb' 12 4 ++ y) (hw 4 (by decide)) (hw 3 (by decide))
  · rw [← ho]; exact congrArg (fun x : Word => x.extractLsb' 0 11) (hw 4 (by decide))
  · rw [← hd]; exact congrArg₂ (fun x y : Word => x.extractLsb' 12 4 ++ y) (hw 6 (by decide)) (hw 5 (by decide))

/-- Settles O51: the image that FSAVE stores is the one that FRSTOR loads. -/
theorem saveThenRestore : Obligations.SaveThenRestore := by
  intro s m hinv hf hwr
  have hsave := exec_fsave s m hf hwr
  have hi := exec_fsave_initialized hsave
  rw [State.storeStack_frame] at hi
  have henv := afterFsave_environment s m hinv.memory hf
  have hregs := afterFsave_register s m hinv.memory hf
  have hrec := (afterFsave_recorded s m).1
  generalize s.afterFsave m = t at hsave hi henv hregs hrec
  have hea : t.ea m = s.ea m := congrArg (·.ea m) hi.port
  have hfit : t.Fits m 94 := by
    refine ⟨hea ▸ hf.1, fun x h1 h2 => ?_⟩
    rw [hea] at h1 h2
    exact (congrArg (fun c : Settings => c.ram.any fun r => r.has x) hi.conf).trans (hf.2 x h1 h2)
  rw [← hea] at henv hregs
  obtain ⟨hcw, hsw, htags, hiptr, hopc, hdptr⟩ := loadEnv_of_environmentAt henv
  obtain ⟨hcw', hsw', hpend', htag', hiptr', hopc', hdptr'⟩ := afterFrstor_image t m
  obtain ⟨hiptr2, hopc2, hdptr2⟩ := afterFldenv_pointers t m
  have hcontrol : (t.afterFrstor m).cw = { s.cw with rsv := (t.afterFrstor m).cw.rsv } := by
    have h : (t.afterFrstor m).cw = Control.load t.conf.cwReserved s.cw.toBits (Config.freeControlBits t.draws) :=
      hcw'.trans hcw
    rw [h, Control.load_eq, Control.ofBits_toBits]
  have hreact : Reacted (t.afterFrstor m) := .react _
  have hconf : (t.afterFrstor m).conf = s.conf :=
    (exec_conf (exec_frstor t m hfit)).trans hi.conf
  have hneu : (t.afterFrstor m).neu = none :=
    ((exec_others (exec_frstor t m hfit) (by simp) (by simp)).neu).trans hi.neu
  have hall : (t.afterFrstor m).sw = { s.sw with
      ir := (t.afterFrstor m).sw.ir, busy := (t.afterFrstor m).sw.busy } := by
    rw [hsw']
    exact congrArg (fun w : Status => { w with
      ir := (t.afterFldenv m).sw.ir, busy := (t.afterFldenv m).sw.busy }) hsw
  have hex : (t.afterFrstor m).sw.ex = s.sw.ex := by rw [hall]
  have htop : (t.afterFrstor m).sw.top = s.sw.top := by rw [hall]
  have hcode : (t.afterFrstor m).sw.code = s.sw.code := by rw [hall]; rfl
  have hunm : (t.afterFrstor m).sw.ex.unmasked (t.afterFrstor m).cw.masks = s.sw.ex.unmasked s.cw.masks := by
    rw [hex, hcontrol]
  have hiem : (t.afterFrstor m).cw.iem = s.cw.iem := by rw [hcontrol]
  have hir : (t.afterFrstor m).sw.ir = s.sw.ir := by rw [hreact.request, hconf, hiem, hunm, hinv.request]
  have hpending : (t.afterFrstor m).pending = s.pending := by rw [hreact.pending, hconf, hiem, hunm, hinv.pending]
  refine ⟨t, _, hsave, exec_frstor t m hfit, htop, hex, hcode, fun p => ?_, fun p => ?_, ?_, hir, hpending,
    fun hn => ?_, fun hc => ?_, _, hcontrol⟩
  · have h := afterFrstor_st t m (p - s.sw.top)
    rw [hregs, State.st_def, State.st_def, htop, add_sub_cancel] at h
    simpa using h
  · rw [htag']
    exact congrArg (fun v : Vector Tag 8 => v.get p.toFin) htags
  · refine (Recorded.begin_operand s m).of_eq ?_ ?_ ?_
    · rw [hiptr', hiptr2, hiptr, hea]
    · rw [hopc', hopc2, hopc, hea]
    · rw [hdptr', hdptr2, hdptr, hea]
  · have hbusy : (t.afterFrstor m).sw.busy = s.sw.busy := by
      rw [hreact.busy, hneu, hpending, hinv.busy, State.busyLine, hn]
    rw [hall, hir, hbusy]
  · have h : (t.afterFrstor m).cw = Control.load t.conf.cwReserved s.cw.toBits (Config.freeControlBits t.draws) :=
      hcw'.trans hcw
    rw [h, hi.conf]
    exact (congrArg (fun k => Control.load k _ _) hc).trans (Control.ofBits_toBits s.cw)

end Sys2Proof.Machine
end

section
/-! SUPPORT. The instructions of the NEU in three forms: on registers, with an operand in memory, and storing; each is an
operation that an unmasked exception of its operands abandons and that B does not influence. From the forms: when
an instruction completes, and what an unmasked exception leaves. -/

namespace Sys2Proof.Machine

/-! ### Operations -/

/-- The state with another B. -/
def State.setBusy (s : State) (b : Bool) : State := { s with sw := { s.sw with busy := b } }

/-- The value does not depend on B. -/
def Blind {α : Type} (f : State → α) : Prop := ∀ s b, f (s.setBusy b) = f s

/-- An operation that NEU instructions share, from the state in which the instruction has recorded itself. -/
structure NeuOp (G : State → State) : Prop where
  /-- B is what the operation makes it, whatever it was -/
  blind : Blind G
  /-- an unmasked I, D or Z that is flagged leaves nothing but the conclusion -/
  abandons : ∀ s, s.sw.ex.unmasked s.cw.masks = false →
    ({ (G s).sw.ex with o := false, u := false, p := false } : ExcSet).unmasked (G s).cw.masks = true →
    ∃ ex code, G s = s.conclude ex code

/-- Of exceptions of results, I, D and Z are none. -/
theorem ExcSet.unmasked_before {x y z m : ExcSet} (hx : x.unmasked m = false) (hy : y.unmasked m = false)
    (hz : z.afterClass) :
    ({ x.union (y.union z) with o := false, u := false, p := false } : ExcSet).unmasked m = false := by
  obtain ⟨h1, h2, h3⟩ := hz
  simp only [ExcSet.unmasked, ExcSet.union, Bool.or_eq_false_iff, h1, h2, h3] at hx hy ⊢
  simp only [Bool.or_false, Bool.and_or_distrib_right, Bool.false_and, Bool.or_eq_false_iff]
  simp [hx, hy]

/-- What was found and does not abandon the instruction is masked. -/
theorem ExcSet.screen_unmasked_false (x m : ExcSet) (h : (x.screen m).2 = false) : (x.screen m).1.unmasked m = false := by
  obtain ⟨i, d, z, o, u, p⟩ := x
  obtain ⟨mi, md, mz, mo, mu, mp⟩ := m
  revert h
  simp only [ExcSet.screen]
  revert i d z mi md mz mo mu mp
  decide

theorem NeuOp.of_attemptCode {before after : State → ExcSet} {code : State → BitVec 4} {eff : State → State → State}
    (hb : Blind before) (ha : Blind after) (hc : Blind code)
    (he : ∀ s b, eff (s.setBusy b) (s.setBusy b) = (eff s s).setBusy b)
    (hclass : ∀ s, (after s).afterClass) (heff : ∀ s, Effect s (eff s s)) :
    NeuOp fun s => s.attemptCode (before s) (after s) (code s) (eff s) where
  blind s b := by
    dsimp only
    rw [hb s b, ha s b, hc s b]
    unfold State.attemptCode
    dsimp only
    rw [he s b]
    rfl
  abandons s hs hu := by
    dsimp only at hu ⊢
    rcases s.attemptCode_cases (before s) (after s) (code s) (eff s) with ⟨-, h⟩ | ⟨h1, h⟩
    · exact ⟨_, _, h⟩
    · rw [h] at hu
      have hex := (heff s).ex
      have hcw : ((eff s s).conclude (((before s).screen s.cw.masks).1.union (after s)) (code s)).cw = s.cw := (heff s).cw
      rw [State.conclude_ex, hex, hcw] at hu
      have hn := ExcSet.unmasked_before hs (ExcSet.screen_unmasked_false _ _ h1) (hclass s)
      exact absurd (hu.symm.trans hn) (by simp)

theorem NeuOp.of_attempt {before after : State → ExcSet} {eff : State → State → State}
    (hb : Blind before) (ha : Blind after) (he : ∀ s b, eff (s.setBusy b) (s.setBusy b) = (eff s s).setBusy b)
    (hclass : ∀ s, (after s).afterClass) (heff : ∀ s, Effect s (eff s s)) :
    NeuOp fun s => s.attempt (before s) (after s) (eff s) :=
  .of_attemptCode (code := State.freeCode) hb ha (fun _ _ => rfl) he hclass heff

/-- An instruction that raises nothing (R435, R439). -/
theorem NeuOp.of_quiet {eff : State → State} (he : ∀ s b, eff (s.setBusy b) = (eff s).setBusy b)
    (heff : ∀ s, Effect s (eff s)) : NeuOp fun s => (eff s).endQuiet where
  blind s b := by dsimp only; rw [he s b]; rfl
  abandons s hs hu := by
    have hex : (eff s).endQuiet.sw.ex = s.sw.ex.union (ExcSet.none.union .none) :=
      (heff s).ex.trans (by simp)
    have hcw : (eff s).endQuiet.cw = s.cw := (heff s).cw
    have hn := ExcSet.unmasked_before (z := .none) hs (ExcSet.unmasked_none s.cw.masks) ⟨rfl, rfl, rfl⟩
    dsimp only at hu
    rw [hex, hcw] at hu
    exact absurd (hu.symm.trans hn) (by simp)

/-- One of two operations, by a condition that does not depend on B. -/
theorem NeuOp.ite {c : State → Bool} {G H : State → State} (hc : Blind c) (hG : NeuOp G) (hH : NeuOp H) :
    NeuOp fun s => if c s then G s else H s where
  blind s b := by dsimp only; rw [hc s b, hG.blind, hH.blind]
  abandons s hs hu := by
    dsimp only at hu ⊢
    split
    · next h => rw [if_pos h] at hu; exact hG.abandons s hs hu
    · next h => rw [if_neg h] at hu; exact hH.abandons s hs hu

theorem afterClass_none : ExcSet.none.afterClass := ⟨rfl, rfl, rfl⟩

/-! ### Each operation -/

theorem NeuOp.loadTagged {d : State → Bool} {v : State → TReal} {t : State → Tag} (hd : Blind d) (hv : Blind v)
    (ht : Blind t) : NeuOp fun s => s.loadTagged (d s) (v s) (t s) := by
  refine .of_attempt (eff := fun s u => if u.pushFull then u.push indefinite else u.pushTagged (v s) (t s))
    (fun s b => ?_) (fun _ _ => rfl) (fun s b => ?_) (fun _ => afterClass_none) fun s => ?_
  · dsimp only; rw [hd s b]; rfl
  · rw [hv s b, ht s b]; change (if s.pushFull then _ else _) = _; split <;> rfl
  · split
    · exact Effect.push ..
    · exact Effect.pushTagged ..

theorem NeuOp.loadReal (f : RealFmt) (a : Nat) : NeuOp fun s => s.loadReal f a :=
  .loadTagged (d := fun s => (cvtReal f (s.load a f.bytes)).d) (fun _ _ => rfl) (fun _ _ => rfl) fun _ _ => rfl
theorem NeuOp.loadTReal (a : Nat) : NeuOp fun s => s.loadTReal a :=
  .loadTagged (d := fun s => classOf (BitVec.ofNat 80 (s.load a 10)) = .denormal) (fun _ _ => rfl) (fun _ _ => rfl)
    fun _ _ => rfl
theorem NeuOp.loadInt (f : IntFmt) (a : Nat) : NeuOp fun s => s.loadInt f a :=
  .loadTagged (d := fun _ => false) (fun _ _ => rfl) (fun _ _ => rfl) fun _ _ => rfl
theorem NeuOp.loadBcd (a : Nat) : NeuOp fun s => s.loadBcd a :=
  .ite (c := fun s => bcdValid (s.load a 10) 18) (fun _ _ => rfl)
    (.loadTagged (d := fun _ => false) (fun _ _ => rfl) (fun _ _ => rfl) fun _ _ => rfl)
    (.loadTagged (d := fun _ => false) (fun _ _ => rfl) (fun _ _ => rfl) fun _ _ => rfl)
theorem NeuOp.loadValue {v : State → TReal} (hv : Blind v) : NeuOp fun s => s.loadValue false (v s) :=
  .loadTagged (fun _ _ => rfl) hv fun s b => by rw [hv s b]

theorem NeuOp.loadSt (i : BitVec 3) : NeuOp fun s => s.loadSt i :=
  .of_attempt (fun _ _ => rfl) (fun _ _ => rfl) (fun _ _ => rfl) (fun _ => afterClass_none) fun _ => Effect.push ..

theorem State.popIf_setBusy (s : State) (pop b : Bool) : (s.setBusy b).popIf pop = (s.popIf pop).setBusy b := by
  cases pop <;> rfl

theorem State.popN_setBusy (s : State) (n : Nat) (b : Bool) : (s.setBusy b).popN n = (s.popN n).setBusy b := by
  induction n generalizing s with
  | zero => rfl
  | succ n ih => exact ih s.pop

theorem NeuOp.storeSt (i : BitVec 3) (pop : Bool) : NeuOp fun s => s.storeSt i pop := by
  refine .of_attempt (eff := fun _ s => (if s.isEmpty 0 then s.writeSt i indefinite
     else s.setReg (s.phys i) (s.st 0) (s.stTag 0)).popIf pop) (fun _ _ => rfl) (fun _ _ => rfl) (fun s b => ?_)
    (fun _ => afterClass_none) fun s => ?_
  · rw [← State.popIf_setBusy]
    change (if s.isEmpty 0 then _ else _ : State).popIf pop = _
    split <;> rfl
  · refine Effect.trans ?_ (Effect.popIf ..)
    split
    · exact Effect.writeSt ..
    · exact Effect.setReg ..

/-- FXCH's registers once the empty ones are the indefinite (R264). -/
def State.filled (s : State) (i : BitVec 3) : State := if s.isEmpty i then s.writeSt i indefinite else s

theorem State.filled_setBusy (s : State) (i : BitVec 3) (b : Bool) :
    (s.setBusy b).filled i = (s.filled i).setBusy b := by
  change (if s.isEmpty i then _ else _ : State) = _
  unfold State.filled
  split <;> rfl

theorem Effect.filled (s : State) (i : BitVec 3) : Effect s (s.filled i) := by
  unfold State.filled
  split
  · exact Effect.writeSt ..
  · exact Effect.refl s

theorem NeuOp.exchange (i : BitVec 3) : NeuOp fun s => s.exchange i := by
  refine .of_attempt (eff := fun _ s => let u := (s.filled 0).filled i
    (u.setReg (u.phys 0) (u.st i) (u.stTag i)).setReg (u.phys i) (u.st 0) (u.stTag 0))
    (fun _ _ => rfl) (fun _ _ => rfl) (fun s b => ?_) (fun _ => afterClass_none) fun s => ?_
  · dsimp only; rw [State.filled_setBusy, State.filled_setBusy]; rfl
  · exact ((Effect.filled s 0).trans (Effect.filled ..)).trans ((Effect.setReg ..).trans (Effect.setReg ..))

theorem NeuOp.writeResult {c : State → Computed} (hc : Blind c) (h : ∀ s, (c s).Classed) (d : BitVec 3) (pop : Bool) :
    NeuOp fun s => s.writeResult (c s) d pop := by
  refine .of_attempt (before := fun s => (c s).before) (after := fun s => (c s).after)
    (eff := fun s u => (u.writeSt d (c s).value).popIf pop) (fun s b => congrArg Computed.before (hc s b))
    (fun s b => congrArg Computed.after (hc s b)) (fun s b => ?_)
    (fun s => (h s).after) fun s => (Effect.writeSt ..).trans (Effect.popIf ..)
  rw [hc s b, ← State.popIf_setBusy]
  rfl

theorem NeuOp.basic (list : ExcSet) (op : BasicOp) (rev : Bool) (d : BitVec 3) {src : State → Source}
    (hs : Blind src) (pop : Bool) : NeuOp fun s => s.basic list op rev d (src s) pop :=
  .writeResult (c := fun s => s.basicResult list op rev d (src s)) (fun s b => by dsimp only; rw [hs s b]; rfl)
    (fun s => basicResult_classed ..) d pop

theorem NeuOp.basicReal (list : ExcSet) (op : BasicOp) (rev : Bool) (f : RealFmt) (a : Nat) :
    NeuOp fun s => s.basic list op rev 0 (s.sourceReal f a) false := .basic _ _ _ _ (fun _ _ => rfl) _
theorem NeuOp.basicInt (list : ExcSet) (op : BasicOp) (rev : Bool) (f : IntFmt) (a : Nat) :
    NeuOp fun s => s.basic list op rev 0 (s.sourceInt f a) false := .basic _ _ _ _ (fun _ _ => rfl) _
theorem NeuOp.basicSt (list : ExcSet) (op : BasicOp) (rev : Bool) (d i : BitVec 3) (pop : Bool) :
    NeuOp fun s => s.basic list op rev d (s.sourceSt i) pop := .basic _ _ _ _ (fun _ _ => rfl) _

theorem NeuOp.unary {c : State → Computed} {e : State → Bool} (hc : Blind c) (he : Blind e) (h : ∀ s, (c s).Classed) :
    NeuOp fun s => s.unary (e s) (c s) :=
  .writeResult (c := fun s => if e s then .invalid indefinite else c s) (fun s b => by dsimp only; rw [hc s b, he s b])
    (fun s => by split; exacts [Computed.classed_invalid _, h s]) 0 false

theorem NeuOp.invalid (d : BitVec 3) (pop : Bool) : NeuOp fun s => s.writeResult (.invalid indefinite) d pop :=
  .writeResult (c := fun _ => .invalid indefinite) (fun _ _ => rfl) (fun _ => Computed.classed_invalid _) d pop

theorem NeuOp.premainder : NeuOp State.premainder :=
  .ite (c := fun s => s.isEmpty 0 || s.isEmpty 1) (fun _ _ => rfl) (.invalid 0 false)
    (.of_attemptCode (before := fun s => (premOf s.cw s.draws (s.num 0) (s.num 1)).result.before)
      (after := fun s => (premOf s.cw s.draws (s.num 0) (s.num 1)).result.after)
      (eff := fun s u => u.writeSt 0 (premOf s.cw s.draws (s.num 0) (s.num 1)).result.value)
      (fun _ _ => rfl) (fun _ _ => rfl) (fun _ _ => rfl) (fun _ _ => rfl) (fun _ => (premOf_classed ..).after)
      fun _ => Effect.writeSt ..)

theorem NeuOp.extract : NeuOp State.extract := by
  refine .ite (c := fun s => s.isEmpty 0) (fun _ _ => rfl) ?_ (.ite (c := State.pushFull) (fun _ _ => rfl) ?_ ?_)
  · refine .of_attempt (eff := fun _ s => if s.pushFull then s.writeSt 0 indefinite
      else (s.writeSt 0 indefinite).push indefinite) (fun _ _ => rfl) (fun _ _ => rfl) (fun s b => ?_)
      (fun _ => afterClass_none) fun s => ?_
    · change (if s.pushFull then _ else _ : State) = _
      split <;> rfl
    · split
      · exact Effect.writeSt ..
      · exact (Effect.writeSt ..).trans (Effect.push ..)
  · exact .of_attempt (fun _ _ => rfl) (fun _ _ => rfl) (fun _ _ => rfl) (fun _ => afterClass_none)
      fun _ => (Effect.writeSt ..).trans (Effect.push ..)
  · exact .of_attempt (before := fun s => (xtractOf s.cw (s.num 0)).before)
      (eff := fun s u => (u.writeSt 0 (xtractOf s.cw (s.num 0)).exponent).push (xtractOf s.cw (s.num 0)).significand)
      (fun _ _ => rfl) (fun _ _ => rfl) (fun _ _ => rfl) (fun _ => afterClass_none)
      fun _ => (Effect.writeSt ..).trans (Effect.push ..)

theorem NeuOp.setSign {neg : State → Bool} (hn : Blind neg) : NeuOp fun s => s.setSign (neg s) := by
  refine .of_attempt (eff := fun s u => if u.isEmpty 0 then u.writeSt 0 indefinite
    else u.setReg (u.phys 0) (withSign (neg s) (u.st 0)) (u.stTag 0)) (fun _ _ => rfl) (fun _ _ => rfl)
    (fun s b => ?_) (fun _ => afterClass_none) fun s => ?_
  · rw [hn s b]
    change (if s.isEmpty 0 then _ else _ : State) = _
    split <;> rfl
  · split
    · exact Effect.writeSt ..
    · exact Effect.setReg ..

theorem NeuOp.compare {src : State → Source} (hs : Blind src) (pops : Nat) :
    NeuOp fun s => s.compare (src s) pops :=
  .of_attemptCode (before := fun s => (s.compareOutcome (src s)).2) (after := fun _ => .none)
    (code := fun s => s.compareCode (s.compareOutcome (src s)).1) (eff := fun _ s => s.popN pops)
    (fun s b => by dsimp only; rw [hs s b]; rfl) (fun _ _ => rfl) (fun s b => by dsimp only; rw [hs s b]; rfl)
    (fun s b => s.popN_setBusy pops b) (fun _ => afterClass_none) fun s => Effect.popN ..

theorem NeuOp.compareReal (f : RealFmt) (pops a : Nat) : NeuOp fun s => s.compare (s.sourceReal f a) pops :=
  .compare (fun _ _ => rfl) pops
theorem NeuOp.compareInt (f : IntFmt) (pops a : Nat) : NeuOp fun s => s.compare (s.sourceInt f a) pops :=
  .compare (fun _ _ => rfl) pops
theorem NeuOp.compareSt (i : BitVec 3) (pops : Nat) : NeuOp fun s => s.compare (s.sourceSt i) pops :=
  .compare (fun _ _ => rfl) pops

theorem NeuOp.examine : NeuOp fun s => s.conclude .none s.examCode := ⟨fun _ _ => rfl, fun _ _ _ => ⟨_, _, rfl⟩⟩

theorem NeuOp.writeFunction {r : State → FunctionResult} (hr : Blind r) (h : ∀ s, (r s).Classed) (d : BitVec 3)
    (pop : Bool) : NeuOp fun s => s.writeFunction (r s) d pop where
  blind s b := by
    dsimp only
    rw [hr s b]
    cases r s with
    | result after v =>
      unfold State.writeFunction State.writeResult State.attempt State.attemptCode
      dsimp only
      rw [show ((s.setBusy b).writeSt d v) = (s.writeSt d v).setBusy b from rfl, State.popIf_setBusy]
      rfl
    | undefined p =>
      unfold State.writeFunction State.attempt State.attemptCode
      dsimp only
      rw [show ((s.setBusy b).setReg ((s.setBusy b).phys d) (Config.freeReal (s.setBusy b).draws)
        (Tag.nonEmpty (Config.freeTag (s.setBusy b).draws))) =
        (s.setReg (s.phys d) (Config.freeReal s.draws) (Tag.nonEmpty (Config.freeTag s.draws))).setBusy b from rfl,
        State.popIf_setBusy]
      rfl
  abandons s hs hu := by
    dsimp only at hu ⊢
    have hk := h s
    cases hc : r s with
    | result after v =>
      rw [hc] at hu hk
      exact (NeuOp.writeResult (c := fun _ => ⟨.none, after, v⟩) (fun _ _ => rfl)
        (fun _ => ⟨⟨rfl, rfl, rfl⟩, hk⟩) d pop).abandons s hs hu
    | undefined p =>
      rw [hc] at hu
      exact (NeuOp.of_attempt (before := fun _ => .none) (after := fun _ => { ExcSet.none with p := p })
        (eff := fun _ s => (s.setReg (s.phys d) (Config.freeReal s.draws)
          (Tag.nonEmpty (Config.freeTag s.draws))).popIf pop) (fun _ _ => rfl) (fun _ _ => rfl)
        (fun s b => State.popIf_setBusy (s.setReg (s.phys d) (Config.freeReal s.draws)
          (Tag.nonEmpty (Config.freeTag s.draws))) pop b) (fun _ => ⟨rfl, rfl, rfl⟩)
        fun s => (Effect.setReg ..).trans (Effect.popIf ..)).abandons s hs hu

theorem NeuOp.function1 {f : Control → TReal → FunctionResult} (h : ∀ c x, (f c x).Classed) :
    NeuOp fun s => s.function1 f :=
  .ite (c := fun s => s.isEmpty 0) (fun _ _ => rfl) (.invalid 0 false)
    (.writeFunction (r := fun s => f s.cw (s.num 0)) (fun _ _ => rfl) (fun _ => h ..) 0 false)

theorem NeuOp.function2 {f : Control → TReal → TReal → FunctionResult} (h : ∀ c y x, (f c y x).Classed) :
    NeuOp fun s => s.function2 f :=
  .ite (c := fun s => s.isEmpty 0 || s.isEmpty 1) (fun _ _ => rfl) (.invalid 1 true)
    (.writeFunction (r := fun s => f s.cw (s.num 1) (s.num 0)) (fun _ _ => rfl) (fun _ => h ..) 1 true)

theorem NeuOp.tangent : NeuOp State.tangent := by
  refine .ite (c := fun s => s.isEmpty 0 || s.pushFull) (fun _ _ => rfl) ?_
    (.ite (c := fun s => ptanInRange (s.num 0)) (fun _ _ => rfl) ?_ ?_)
  · exact .of_attempt (fun _ _ => rfl) (fun _ _ => rfl) (fun _ _ => rfl) (fun _ => afterClass_none)
      fun _ => (Effect.writeSt ..).trans (Effect.push ..)
  · exact .of_attempt (after := fun _ => .onlyP)
      (eff := fun s u => (u.writeSt 0 (normalOrZero (Config.fPtanY (s.num 0) s.cw.rc))).push
        (normalOrZero (Config.fPtanX (s.num 0) s.cw.rc)))
      (fun _ _ => rfl) (fun _ _ => rfl) (fun _ _ => rfl) (fun _ => ⟨rfl, rfl, rfl⟩)
      fun _ => (Effect.writeSt ..).trans (Effect.push ..)
  · exact .of_attempt (eff := fun _ s =>
      (s.setReg (s.phys 0) (Config.freeReal s.draws) (Tag.nonEmpty (Config.freeTag s.draws))).pushTagged
        (Config.freeReal2 s.draws) (Tag.nonEmpty (Config.freeTag2 s.draws)))
      (fun _ _ => rfl) (fun _ _ => rfl) (fun _ _ => rfl) (fun _ => afterClass_none)
      fun _ => (Effect.setReg ..).trans (Effect.pushTagged ..)

/-! ### The three forms -/

/-- What an instruction of the NEU does, in one of three ways. -/
inductive NeuForm (i : Instr) : Prop where
  | register {G : State → State} (hG : NeuOp G) (hm : i.memOp? = none) (h : ∀ s, exec i s = .next (G (s.begin none)))
  | operand {m : MemOp} {G : Nat → State → State} (hG : ∀ a, NeuOp (G a)) (hm : i.memOp? = some m)
    (hs : isStore i = false)
    (h : ∀ s : State, exec i s = s.withOperand m (operandBytes i) fun a => G a (s.begin (some a)))
  | store {m : MemOp} {x : State → Stored} (pop : Bool) (hc : ∀ s, (x s).Classed)
    (hx : ∀ (s : State) (ea : Option Nat) (l : List Input) (b : Bool),
      x (State.setBusy { s.begin ea with inbox := l } b) = x s)
    (hm : i.memOp? = some m) (hs : isStore i = true)
    (h : ∀ s : State, exec i s = s.storeOperand m (operandBytes i) (x s) pop)

/-- Every instruction of the NEU has a form. -/
theorem neuForm (i : Instr) (hx : executorOf i = .neu) : NeuForm i := by
  cases i with
  | fldM32 m => exact .operand (.loadReal .short) rfl rfl fun _ => rfl
  | fldM64 m => exact .operand (.loadReal .long) rfl rfl fun _ => rfl
  | fldM80 m => exact .operand (.loadTReal) rfl rfl fun _ => rfl
  | fldSti k => exact .register (.loadSt k) rfl fun _ => rfl
  | fstM32 m => exact .store false ((storedReal_classed · .short)) (fun _ _ _ _ => rfl) rfl rfl fun _ => rfl
  | fstM64 m => exact .store false ((storedReal_classed · .long)) (fun _ _ _ _ => rfl) rfl rfl fun _ => rfl
  | fstSti k => exact .register (.storeSt k false) rfl fun _ => rfl
  | fstpM32 m => exact .store true ((storedReal_classed · .short)) (fun _ _ _ _ => rfl) rfl rfl fun _ => rfl
  | fstpM64 m => exact .store true ((storedReal_classed · .long)) (fun _ _ _ _ => rfl) rfl rfl fun _ => rfl
  | fstpM80 m => exact .store true (storedTReal_classed) (fun _ _ _ _ => rfl) rfl rfl fun _ => rfl
  | fstpSti k => exact .register (.storeSt k true) rfl fun _ => rfl
  | fxch k => exact .register (.exchange k) rfl fun _ => rfl
  | fildM16 m => exact .operand (.loadInt .word) rfl rfl fun _ => rfl
  | fildM32 m => exact .operand (.loadInt .short) rfl rfl fun _ => rfl
  | fildM64 m => exact .operand (.loadInt .long) rfl rfl fun _ => rfl
  | fistM16 m => exact .store false ((storedInt_classed · .word)) (fun _ _ _ _ => rfl) rfl rfl fun _ => rfl
  | fistM32 m => exact .store false ((storedInt_classed · .short)) (fun _ _ _ _ => rfl) rfl rfl fun _ => rfl
  | fistpM16 m => exact .store true ((storedInt_classed · .word)) (fun _ _ _ _ => rfl) rfl rfl fun _ => rfl
  | fistpM32 m => exact .store true ((storedInt_classed · .short)) (fun _ _ _ _ => rfl) rfl rfl fun _ => rfl
  | fistpM64 m => exact .store true ((storedInt_classed · .long)) (fun _ _ _ _ => rfl) rfl rfl fun _ => rfl
  | fbld m => exact .operand (.loadBcd) rfl rfl fun _ => rfl
  | fbstp m => exact .store true (storedBcd_classed) (fun _ _ _ _ => rfl) rfl rfl fun _ => rfl
  | faddM32 m => exact .operand (.basicReal listReal .add false .short) rfl rfl fun _ => rfl
  | faddM64 m => exact .operand (.basicReal listReal .add false .long) rfl rfl fun _ => rfl
  | faddSt k => exact .register (.basicSt listReal .add false 0 k false) rfl fun _ => rfl
  | faddSti k => exact .register (.basicSt listReal .add false k 0 false) rfl fun _ => rfl
  | faddp k => exact .register (.basicSt listReal .add false k 0 true) rfl fun _ => rfl
  | fiaddM16 m => exact .operand (.basicInt listInt .add false .word) rfl rfl fun _ => rfl
  | fiaddM32 m => exact .operand (.basicInt listInt .add false .short) rfl rfl fun _ => rfl
  | fsubM32 m => exact .operand (.basicReal listReal .sub false .short) rfl rfl fun _ => rfl
  | fsubM64 m => exact .operand (.basicReal listReal .sub false .long) rfl rfl fun _ => rfl
  | fsubSt k => exact .register (.basicSt listReal .sub false 0 k false) rfl fun _ => rfl
  | fsubSti k => exact .register (.basicSt listReal .sub false k 0 false) rfl fun _ => rfl
  | fsubp k => exact .register (.basicSt listReal .sub false k 0 true) rfl fun _ => rfl
  | fisubM16 m => exact .operand (.basicInt listInt .sub false .word) rfl rfl fun _ => rfl
  | fisubM32 m => exact .operand (.basicInt listInt .sub false .short) rfl rfl fun _ => rfl
  | fsubrM32 m => exact .operand (.basicReal listReal .sub true .short) rfl rfl fun _ => rfl
  | fsubrM64 m => exact .operand (.basicReal listReal .sub true .long) rfl rfl fun _ => rfl
  | fsubrSt k => exact .register (.basicSt listReal .sub true 0 k false) rfl fun _ => rfl
  | fsubrSti k => exact .register (.basicSt listReal .sub true k 0 false) rfl fun _ => rfl
  | fsubrp k => exact .register (.basicSt listReal .sub true k 0 true) rfl fun _ => rfl
  | fisubrM16 m => exact .operand (.basicInt listInt .sub true .word) rfl rfl fun _ => rfl
  | fisubrM32 m => exact .operand (.basicInt listInt .sub true .short) rfl rfl fun _ => rfl
  | fmulM32 m => exact .operand (.basicReal listReal .mul false .short) rfl rfl fun _ => rfl
  | fmulM64 m => exact .operand (.basicReal listReal .mul false .long) rfl rfl fun _ => rfl
  | fmulSt k => exact .register (.basicSt listReal .mul false 0 k false) rfl fun _ => rfl
  | fmulSti k => exact .register (.basicSt listReal .mul false k 0 false) rfl fun _ => rfl
  | fmulp k => exact .register (.basicSt listReal .mul false k 0 true) rfl fun _ => rfl
  | fimulM16 m => exact .operand (.basicInt listInt .mul false .word) rfl rfl fun _ => rfl
  | fimulM32 m => exact .operand (.basicInt listInt .mul false .short) rfl rfl fun _ => rfl
  | fdivM32 m => exact .operand (.basicReal listDiv .div false .short) rfl rfl fun _ => rfl
  | fdivM64 m => exact .operand (.basicReal listDiv .div false .long) rfl rfl fun _ => rfl
  | fdivSt k => exact .register (.basicSt listDiv .div false 0 k false) rfl fun _ => rfl
  | fdivSti k => exact .register (.basicSt listDiv .div false k 0 false) rfl fun _ => rfl
  | fdivp k => exact .register (.basicSt listDiv .div false k 0 true) rfl fun _ => rfl
  | fidivM16 m => exact .operand (.basicInt listDiv .div false .word) rfl rfl fun _ => rfl
  | fidivM32 m => exact .operand (.basicInt listDiv .div false .short) rfl rfl fun _ => rfl
  | fdivrM32 m => exact .operand (.basicReal listDiv .div true .short) rfl rfl fun _ => rfl
  | fdivrM64 m => exact .operand (.basicReal listDiv .div true .long) rfl rfl fun _ => rfl
  | fdivrSt k => exact .register (.basicSt listDiv .div true 0 k false) rfl fun _ => rfl
  | fdivrSti k => exact .register (.basicSt listDiv .div true k 0 false) rfl fun _ => rfl
  | fdivrp k => exact .register (.basicSt listDiv .div true k 0 true) rfl fun _ => rfl
  | fidivrM16 m => exact .operand (.basicInt listDiv .div true .word) rfl rfl fun _ => rfl
  | fidivrM32 m => exact .operand (.basicInt listDiv .div true .short) rfl rfl fun _ => rfl
  | fsqrt => exact .register (.unary (c := fun s => sqrtOf s.cw s.draws (s.num 0)) (e := fun s => s.isEmpty 0) (fun _ _ => rfl) (fun _ _ => rfl) fun _ => sqrtOf_classed ..) rfl fun _ => rfl
  | fscale => exact .register (.unary (c := fun s => scaleOf s.cw s.draws (s.num 0) (s.num 1)) (e := fun s => s.isEmpty 0 || s.isEmpty 1) (fun _ _ => rfl)
      (fun _ _ => rfl) fun _ => scaleOf_classed ..) rfl fun _ => rfl
  | fprem => exact .register (.premainder) rfl fun _ => rfl
  | frndint => exact .register (.unary (c := fun s => rndintOf s.cw (s.num 0)) (e := fun s => s.isEmpty 0) (fun _ _ => rfl) (fun _ _ => rfl) fun _ => rndintOf_classed ..) rfl fun _ => rfl
  | fxtract => exact .register (.extract) rfl fun _ => rfl
  | fabs => exact .register (.setSign (neg := fun _ => false) fun _ _ => rfl) rfl fun _ => rfl
  | fchs => exact .register (.setSign (neg := fun s => !signOf (s.st 0)) fun _ _ => rfl) rfl fun _ => rfl
  | fcomM32 m => exact .operand (.compareReal .short 0) rfl rfl fun _ => rfl
  | fcomM64 m => exact .operand (.compareReal .long 0) rfl rfl fun _ => rfl
  | fcomSti k => exact .register (.compareSt k 0) rfl fun _ => rfl
  | fcompM32 m => exact .operand (.compareReal .short 1) rfl rfl fun _ => rfl
  | fcompM64 m => exact .operand (.compareReal .long 1) rfl rfl fun _ => rfl
  | fcompSti k => exact .register (.compareSt k 1) rfl fun _ => rfl
  | fcompp => exact .register (.compareSt 1 2) rfl fun _ => rfl
  | ficomM16 m => exact .operand (.compareInt .word 0) rfl rfl fun _ => rfl
  | ficomM32 m => exact .operand (.compareInt .short 0) rfl rfl fun _ => rfl
  | ficompM16 m => exact .operand (.compareInt .word 1) rfl rfl fun _ => rfl
  | ficompM32 m => exact .operand (.compareInt .short 1) rfl rfl fun _ => rfl
  | ftst => exact .register (.compare (src := fun _ => ⟨some (zeroOf false), false⟩) (fun _ _ => rfl) 0) rfl fun _ => rfl
  | fxam => exact .register (.examine) rfl fun _ => rfl
  | fptan => exact .register (.tangent) rfl fun _ => rfl
  | fpatan => exact .register (.function2 patanOf_classed) rfl fun _ => rfl
  | f2xm1 => exact .register (.function1 f2xm1Of_classed) rfl fun _ => rfl
  | fyl2x => exact .register (.function2 yl2xOf_classed) rfl fun _ => rfl
  | fyl2xp1 => exact .register (.function2 yl2xp1Of_classed) rfl fun _ => rfl
  | fldz => exact .register (.loadValue (v := fun _ => zeroOf false) fun _ _ => rfl) rfl fun _ => rfl
  | fld1 => exact .register (.loadValue (v := fun _ => oneReal) fun _ _ => rfl) rfl fun _ => rfl
  | fldpi => exact .register (.loadValue (v := fun s => s.conf.cPi) fun _ _ => rfl) rfl fun _ => rfl
  | fldl2t => exact .register (.loadValue (v := fun s => s.conf.cL2t) fun _ _ => rfl) rfl fun _ => rfl
  | fldl2e => exact .register (.loadValue (v := fun s => s.conf.cL2e) fun _ _ => rfl) rfl fun _ => rfl
  | fldlg2 => exact .register (.loadValue (v := fun s => s.conf.cLg2) fun _ _ => rfl) rfl fun _ => rfl
  | fldln2 => exact .register (.loadValue (v := fun s => s.conf.cLn2) fun _ _ => rfl) rfl fun _ => rfl
  | fincstp => exact .register (.of_quiet (eff := fun s => s.setTop (s.sw.top + 1)) (fun _ _ => rfl) fun _ => Effect.setTop ..) rfl fun _ => rfl
  | fdecstp => exact .register (.of_quiet (eff := fun s => s.setTop (s.sw.top - 1)) (fun _ _ => rfl) fun _ => Effect.setTop ..) rfl fun _ => rfl
  | ffree k => exact .register (.of_quiet (eff := fun s => s.setTag (s.phys k) .empty) (fun _ _ => rfl) fun _ => Effect.setTag ..) rfl fun _ => rfl
  | fnop => exact .register (.of_quiet (eff := fun s => s) (fun _ _ => rfl) fun _ => Effect.refl _) rfl fun _ => rfl
  | _ => exact absurd hx (by simp [executorOf])

end Sys2Proof.Machine
end

section
/-! SUPPORT. When an instruction completes, where it stops instead, and what an unmasked exception leaves of an instruction of
the NEU (spec/20_memory.md sections 1, 3 and 6; spec/60_exceptions.md section 2). -/

namespace Sys2Proof.Machine

/-! ### Unmasked exceptions -/

theorem ExcSet.unmasked_of_part {x m : ExcSet}
    (h : ({ x with p := false } : ExcSet).unmasked m = true ∨
      ({ x with o := false, u := false, p := false } : ExcSet).unmasked m = true) : x.unmasked m = true := by
  simp only [ExcSet.unmasked, Bool.false_and, Bool.or_false, Bool.or_eq_true] at h ⊢
  tauto

/-- A conclusion that leaves an unmasked exception flagged leaves the rest and stops the NDP. -/
theorem conclude_stops {s t : State} {ea : Option Nat} {ex : ExcSet} {code : BitVec 4}
    (h : t = (s.begin ea).conclude ex code) (hu : t.sw.ex.unmasked t.cw.masks = true) :
    StackKept s t ∧ MemoryKept s t ∧ (t.conf.busyWhenIem = .hold ∨ t.cw.iem = false → t.pending = true) := by
  have hr : Reacted t := h ▸ .conclude ..
  refine ⟨h ▸ ⟨rfl, fun _ => rfl, fun _ => rfl⟩, fun _ => h ▸ rfl, fun hc => ?_⟩
  rw [hr.pending, hu, (Settings.held_of_hold hc true).1]

/-- A store whose flags leave an unmasked exception other than P has been abandoned or suppressed. -/
theorem State.attemptStore_abandons (s : State) (before after : ExcSet) (eff : State → State)
    (heff : Effect s (eff s)) (hs : s.sw.ex.unmasked s.cw.masks = false)
    (hu : ({ (s.attemptStore before after eff).sw.ex with p := false } : ExcSet).unmasked
      (s.attemptStore before after eff).cw.masks = true) :
    ∃ ex code, s.attemptStore before after eff = s.conclude ex code := by
  rcases s.attemptStore_cases before after eff with ⟨ex, h⟩ | ⟨h1, h2, h⟩
  · exact ⟨_, _, h⟩
  · have hb := ExcSet.screen_unmasked_false _ _ h1
    have hcw : ((eff s).conclude ((before.screen s.cw.masks).1.union after) s.freeCode).cw = s.cw := heff.cw
    rw [h, State.conclude_ex, heff.ex, hcw] at hu
    have hn : ({ s.sw.ex.union ((before.screen s.cw.masks).1.union after) with p := false } : ExcSet).unmasked
        s.cw.masks = false := by
      have he : ({ s.sw.ex.union ((before.screen s.cw.masks).1.union after) with p := false } : ExcSet) =
          ({ s.sw.ex with p := false } : ExcSet).union
            (({ (before.screen s.cw.masks).1 with p := false } : ExcSet).union { after with p := false }) := rfl
      have drop {x : ExcSet} (hx : x.unmasked s.cw.masks = false) :
          ({ x with p := false } : ExcSet).unmasked s.cw.masks = false := by
        refine Bool.eq_false_iff.mpr fun hc => ?_
        rw [ExcSet.unmasked_of_part (.inl hc)] at hx
        exact absurd hx (by simp)
      rw [he, ExcSet.unmasked_union, ExcSet.unmasked_union, drop hs, drop hb, h2]
      rfl
    exact absurd (hu.symm.trans hn) (by simp)

/-- Settles O22: by the three forms; in each, what is not abandoned leaves the I, D and Z that it flags masked, and a
store also O and U. -/
theorem unmaskedExceptionAbandons : Obligations.UnmaskedExceptionAbandons := by
  intro i s t hx h hs hu
  cases neuForm i hx with
  | register hG hm hexec =>
    obtain rfl := Host.Outcome.next.inj ((hexec s).symm.trans h)
    have hi : isStore i = false := Bool.eq_false_iff.mpr fun hc => by
      obtain ⟨m, hm'⟩ := isStore_memOp hc
      exact absurd (hm.symm.trans hm') (by simp)
    rw [hi, if_neg (by simp)] at hu
    obtain ⟨ex, code, he⟩ := hG.abandons (s.begin none) hs hu
    exact conclude_stops he (ExcSet.unmasked_of_part (.inr hu))
  | operand hG hm hi hexec =>
    obtain ⟨-, rfl⟩ := State.withOperand_next _ _ _ _ _ ((hexec s).symm.trans h)
    rw [hi, if_neg (by simp)] at hu
    obtain ⟨ex, code, he⟩ := (hG _).abandons (s.begin _) hs hu
    exact conclude_stops he (ExcSet.unmasked_of_part (.inr hu))
  | store pop hc hx hm hi hexec =>
    obtain ⟨-, -, rfl⟩ := State.withDestination_next _ _ _ _ _ _ ((hexec s).symm.trans h)
    rw [hi, if_pos rfl] at hu
    obtain ⟨ex, code, he⟩ := (s.begin _).attemptStore_abandons _ _ _ ((Effect.store ..).trans (Effect.popIf ..)) hs hu
    exact conclude_stops he (ExcSet.unmasked_of_part (.inl hu))

/-! ### Where an instruction stops -/

/-- An operand that does not end at or below FFFFFH (20_memory.md R89, D4). -/
theorem State.operandStop_past (s : State) (m : MemOp) (n : Nat) (h : (s.ea m).toNat + n > 2 ^ 20) :
    s.operandStop m n = some (.operandPastTop (s.ea m)) := by
  unfold State.operandStop
  rw [if_neg (by omega)]

/-- An operand with a byte outside the allocated memory (R94, D3). -/
theorem State.operandStop_unallocated (s : State) (m : MemOp) (n : Nat) (h : (s.ea m).toNat + n ≤ 2 ^ 20)
    (hf : ¬ s.Fits m n) : ∃ x, x ∈ addresses (s.ea m).toNat n ∧ s.allocated x = false ∧
      s.operandStop m n = some (.unallocated x) := by
  have hne := mt (s.operandStop_eq_none m n).mp hf
  unfold State.operandStop at hne ⊢
  rw [if_pos h] at hne ⊢
  cases hx : (addresses (s.ea m).toNat n).find? fun x => !s.allocated x with
  | none => rw [hx] at hne; exact absurd rfl hne
  | some x =>
    have hp := List.find?_some hx
    exact ⟨x, List.mem_of_find?_eq_some hx, by simpa using hp, rfl⟩

theorem State.withOperand_stop {s : State} {m : MemOp} {n : Nat} {r : Fault} (f : Nat → State)
    (h : s.operandStop m n = some r) : s.withOperand m n f = .fault r := by
  unfold State.withOperand; rw [h]

theorem State.withDestination_stop {s : State} {m : MemOp} {n : Nat} {r : Fault} (w : Bool) (f : Nat → State)
    (h : s.operandStop m n = some r) : s.withDestination m n w f = .fault r := by
  unfold State.withDestination; rw [h]

/-- A store into the program (R104). -/
theorem State.withDestination_program {s : State} {m : MemOp} {n : Nat} (f : Nat → State) (hf : s.Fits m n)
    (hw : ¬ s.Writable m n) : ∃ x, x ∈ addresses (s.ea m).toNat n ∧ s.isProgram x = true ∧
      s.withDestination m n true f = .refused (.storeIntoProgram x) := by
  have hne := mt (s.program_eq_none m n).mp hw
  unfold State.withDestination
  rw [(s.operandStop_eq_none m n).mpr hf]
  dsimp only
  rw [if_pos rfl]
  cases hx : (addresses (s.ea m).toNat n).find? s.isProgram with
  | none => exact absurd hx hne
  | some x => exact ⟨x, List.mem_of_find?_eq_some hx, List.find?_some hx, rfl⟩

/-! ### What completes -/

/-- How an instruction with the memory operand `m` meets it. -/
structure MeetsOperand (i : Instr) (s : State) (m : MemOp) : Prop where
  completes : s.Fits m (operandBytes i) → (isStore i = true → s.Writable m (operandBytes i)) → ∃ t, exec i s = .next t
  past : (s.ea m).toNat + operandBytes i > 2 ^ 20 → exec i s = .fault (.operandPastTop (s.ea m))
  unallocated : (s.ea m).toNat + operandBytes i ≤ 2 ^ 20 → ¬ s.Fits m (operandBytes i) →
    ∃ x, x ∈ addresses (s.ea m).toNat (operandBytes i) ∧ s.allocated x = false ∧ exec i s = .fault (.unallocated x)
  program : s.Fits m (operandBytes i) → isStore i = true → ¬ s.Writable m (operandBytes i) →
    (∃ x, x ∈ addresses (s.ea m).toNat (operandBytes i) ∧ s.isProgram x = true ∧
      exec i s = .refused (.storeIntoProgram x)) ∨
    (executorOf i = .neu ∧ ∃ raised : ExcSet, ExcSet.unmasked { raised with p := false } s.cw.masks = true ∧
      Completes (exec i s) fun t => Abandoned s t (some (s.ea m)) raised)

theorem MeetsOperand.of_operand {i : Instr} {s : State} {m : MemOp} {f : Nat → State} (hs : isStore i = false)
    (h : exec i s = s.withOperand m (operandBytes i) f) : MeetsOperand i s m where
  completes hf _ := ⟨_, h.trans (s.withOperand_fits m _ f hf)⟩
  past hp := h.trans (State.withOperand_stop f (s.operandStop_past m _ hp))
  unallocated hle hf :=
    let ⟨x, hx, ha, hst⟩ := s.operandStop_unallocated m _ hle hf
    ⟨x, hx, ha, h.trans (State.withOperand_stop f hst)⟩
  program _ hc _ := absurd (hs.symm.trans hc) (by simp)

theorem MeetsOperand.of_destination {i : Instr} {s : State} {m : MemOp} {f : Nat → State}
    (h : exec i s = s.withDestination m (operandBytes i) true f) (hs : isStore i = true) : MeetsOperand i s m where
  completes hf hw := ⟨_, h.trans (s.withDestination_fits m _ true f hf fun _ => hw hs)⟩
  past hp := h.trans (State.withDestination_stop _ f (s.operandStop_past m _ hp))
  unallocated hle hf :=
    let ⟨x, hx, ha, hst⟩ := s.operandStop_unallocated m _ hle hf
    ⟨x, hx, ha, h.trans (State.withDestination_stop _ f hst)⟩
  program hf _ hw :=
    let ⟨x, hx, hp, hr⟩ := State.withDestination_program f hf hw
    .inl ⟨x, hx, hp, h.trans hr⟩

/-- A suppressed store is abandoned by an unmasked exception other than P. -/
theorem storeBits_abandoned (s : State) (m : MemOp) (n : Nat) (x : Stored) (pop : Bool) (hc : x.Classed)
    (h : x.suppressed s.cw.masks = true) : ∃ raised : ExcSet,
      ExcSet.unmasked { raised with p := false } s.cw.masks = true ∧
      Abandoned s ((s.begin (some (s.ea m).toNat)).storeBits (s.ea m).toNat n x pop) (some (s.ea m)) raised := by
  have hsnd := ExcSet.screen_snd x.before s.cw.masks hc.before
  unfold Stored.suppressed at h
  rw [hsnd] at h
  by_cases hp : Proceeds s x.before
  · have ha : ({ x.after with p := false } : ExcSet).unmasked s.cw.masks = true := by
      rw [Proceeds] at hp
      rwa [hp, Bool.false_or] at h
    refine ⟨_, ?_, s.attemptStore_suppressed (some (s.ea m)) _ _ _ hc.before hp ha⟩
    have he : ({ x.before.union { x.after with p := false } with p := false } : ExcSet) =
        ({ x.before with p := false } : ExcSet).union { x.after with p := false } := rfl
    rw [he, ExcSet.unmasked_union, ha, Bool.or_true]
  · refine ⟨_, ?_, s.attemptStore_abandoned (some (s.ea m)) _ _ _ hc.before hp⟩
    have hs := ExcSet.screen_upTo x.before s.cw.masks hc.before (Bool.eq_true_of_not_eq_false hp)
    have hu := ExcSet.screen_unmasked x.before s.cw.masks (congrArg Prod.snd hs)
    rw [hs] at hu
    exact hu

theorem MeetsOperand.of_store {i : Instr} {s : State} {m : MemOp} {x : Stored} {pop : Bool} (hx : executorOf i = .neu)
    (hs : isStore i = true) (hc : x.Classed) (h : exec i s = s.storeOperand m (operandBytes i) x pop) :
    MeetsOperand i s m where
  completes hf hw := ⟨_, h.trans (s.withDestination_fits m _ _ _ hf fun _ => hw hs)⟩
  past hp := h.trans (State.withDestination_stop _ _ (s.operandStop_past m _ hp))
  unallocated hle hf :=
    let ⟨x, hx, ha, hst⟩ := s.operandStop_unallocated m _ hle hf
    ⟨x, hx, ha, h.trans (State.withDestination_stop _ _ hst)⟩
  program hf _ hw := by
    unfold State.storeOperand at h
    cases hsup : x.suppressed s.cw.masks <;> rw [hsup] at h
    · obtain ⟨y, hy, hp, hr⟩ := State.withDestination_program _ hf hw
      exact .inl ⟨y, hy, hp, h.trans hr⟩
    · obtain ⟨raised, hu, ha⟩ := storeBits_abandoned s m (operandBytes i) x pop hc hsup
      exact .inr ⟨hx, raised, hu, _, h.trans (s.withDestination_fits m _ _ _ hf fun hn => nomatch hn), ha⟩

/-- Every instruction with a memory operand. -/
theorem exec_meetsOperand {i : Instr} (s : State) {m : MemOp} (hm : i.memOp? = some m) : MeetsOperand i s m := by
  by_cases hx : executorOf i = .neu
  · cases neuForm i hx with
    | register hG hm' hexec => exact absurd (hm'.symm.trans hm) (by simp)
    | operand hG hm' hi hexec =>
      obtain rfl := Option.some.inj (hm'.symm.trans hm)
      exact .of_operand hi (hexec s)
    | store pop hc hb hm' hi hexec =>
      obtain rfl := Option.some.inj (hm'.symm.trans hm)
      exact .of_store hx hi (hc s) (hexec s)
  · cases i with
    | fldcw k =>
      obtain rfl := Option.some.inj hm
      refine .of_operand (f := ?_) rfl ?h
      case h => change execFldcw k s = _; unfold execFldcw; exact rfl
    | fldenv k =>
      obtain rfl := Option.some.inj hm
      refine .of_operand (f := ?_) rfl ?h
      case h => change execFldenv k s = _; unfold execFldenv; exact rfl
    | frstor k =>
      obtain rfl := Option.some.inj hm
      refine .of_operand (f := ?_) rfl ?h
      case h => change execFrstor k s = _; unfold execFrstor; exact rfl
    | fstcw k =>
      obtain rfl := Option.some.inj hm
      refine .of_destination (f := ?_) ?h rfl
      case h => change execFstcw k s = _; unfold execFstcw; exact rfl
    | fstsw k =>
      obtain rfl := Option.some.inj hm
      refine .of_destination (f := ?_) ?h rfl
      case h => change execFstsw k s = _; unfold execFstsw; exact rfl
    | fstenv k =>
      obtain rfl := Option.some.inj hm
      refine .of_destination (f := ?_) ?h rfl
      case h => change execFstenv k s = _; unfold execFstenv; exact rfl
    | fsave k =>
      obtain rfl := Option.some.inj hm
      refine .of_destination (f := ?_) ?h rfl
      case h => change execFsave k s = _; unfold execFsave; exact rfl
    | reservedM a b k =>
      obtain rfl := Option.some.inj hm
      have hlt := (s.ea k).isLt
      have hfit : s.Fits k 0 := ⟨hlt.le, fun x h1 h2 => absurd (h1.trans_lt h2) (Nat.lt_irrefl _)⟩
      exact ⟨fun _ _ => ⟨s, rfl⟩, fun hp => absurd hp (by simp only [operandBytes]; omega),
        fun _ hf => absurd hfit hf, fun _ hs => absurd (show false = true from hs) (by simp)⟩
    | finit | fdisi | feni | fclex | fwait => exact absurd hm (by simp [Instr.memOp?])
    | reservedR a b k => exact absurd hm (by simp [Instr.memOp?])
    | _ => exact absurd rfl hx

/-- Every instruction without a memory operand but the endless wait. -/
theorem exec_completes_register {i : Instr} (s : State) (hm : i.memOp? = none) (hw : i = .fwait → s.pending = false) :
    ∃ t, exec i s = .next t := by
  by_cases hx : executorOf i = .neu
  · cases neuForm i hx with
    | register hG hm' hexec => exact ⟨_, hexec s⟩
    | operand hG hm' hi hexec => exact absurd (hm'.symm.trans hm) (by simp)
    | store pop hc hb hm' hi hexec => exact absurd (hm'.symm.trans hm) (by simp)
  · cases i with
    | finit | fdisi | feni | fclex | reservedR => exact ⟨_, rfl⟩
    | fwait =>
      refine ⟨s, ?_⟩
      change execFwait s = _
      unfold execFwait
      rw [hw rfl]
      rfl
    | _ => first | exact absurd rfl hx | exact absurd hm (by simp [Instr.memOp?])

/-- Where an instruction's operand fits and may be stored to, it completes. -/
theorem exec_completes {i : Instr} {s : State} (hw : i = .fwait → s.pending = false)
    (h : ∀ m, i.memOp? = some m → s.Fits m (operandBytes i) ∧ (isStore i = true → s.Writable m (operandBytes i))) :
    ∃ t, exec i s = .next t := by
  cases hm : i.memOp? with
  | none => exact exec_completes_register s hm hw
  | some m => exact (exec_meetsOperand s hm).completes (h m hm).1 (h m hm).2

/-- Settles O23: by how an instruction meets its operand. -/
theorem everyInstructionCompletes : Obligations.EveryInstructionCompletes := by
  intro i s hw
  refine ⟨exec_completes hw, fun m hm => ?_⟩
  obtain ⟨-, hpast, hunallocated, hprogram⟩ := exec_meetsOperand s hm
  exact ⟨hpast, hunallocated, hprogram⟩

end Sys2Proof.Machine
end

section
/-! SUPPORT. The agents beside one another: what presenting an event, starting, running, completing and aborting an
instruction leave, and that every step keeps the invariant (spec/60_exceptions.md section 1). -/

namespace Sys2Proof.Machine

/-! ### The invariant in two parts -/

/-- Memory canonical, IR, B and `pending` as flags and masks say, and the settings within their bounds. -/
structure Sound (s : State) : Prop where
  memory : s.mem.wf = true
  reacted : Reacted s
  settings : s.conf.wf = true

/-- The NEU runs only its own instructions, and only FNSAVE or FNSTENV is queued, while it runs. -/
structure JobsSound (s : State) : Prop where
  running : ∀ j, s.neu = some j → (executorOf j.instr).onNeu = true
  waiting : ∀ j, s.queued = some j → executorOf j.instr = .queued
  queued : s.queued.isSome = true → s.neu.isSome = true

theorem inv_iff (s : State) : s.Inv ↔ Sound s ∧ JobsSound s :=
  ⟨fun h => ⟨⟨h.memory, ⟨h.pending, h.request, h.busy⟩, h.settings⟩, ⟨h.running, h.waiting, h.queued⟩⟩,
    fun ⟨h, k⟩ => ⟨h.memory, h.reacted.pending, h.reacted.request, h.reacted.busy, k.running, k.waiting, k.queued,
      h.settings⟩⟩

theorem State.Inv.sound {s : State} (h : s.Inv) : Sound s := ((inv_iff s).mp h).1
theorem State.Inv.jobs {s : State} (h : s.Inv) : JobsSound s := ((inv_iff s).mp h).2

theorem JobsSound.of_eq {s t : State} (h : JobsSound s) (h1 : t.neu = s.neu) (h2 : t.queued = s.queued) : JobsSound t :=
  ⟨fun j hj => h.running j (h1 ▸ hj), fun j hj => h.waiting j (h2 ▸ hj), fun hq => h1 ▸ h.queued (h2 ▸ hq)⟩

theorem JobsSound.of_none {t : State} (h1 : t.neu = none) (h2 : t.queued = none) : JobsSound t :=
  ⟨fun j hj => absurd (h1.symm.trans hj) (by simp), fun j hj => absurd (h2.symm.trans hj) (by simp),
    fun hq => absurd hq (by rw [h2]; simp)⟩

/-! ### Instructions -/

/-- What an instruction leaves is sound; one that does not react needs that it was so before. -/
theorem exec_sound {i : Instr} {s t : State} (h : exec i s = .next t) (hm : s.mem.wf = true) (hc : s.conf.wf = true)
    (hr : doesNotReact i = true → Reacted s) : Sound t :=
  ⟨(exec_memory h hm).wf, exec_reacted h hr, (exec_conf h).symm ▸ hc⟩

theorem exec_inv {i : Instr} {s t : State} (h : exec i s = .next t) (hs : s.Inv) : t.Inv := by
  refine (inv_iff t).mpr ⟨exec_sound h hs.memory hs.settings fun _ => hs.sound.reacted, ?_⟩
  rcases exec_jobs h with ⟨h1, h2⟩ | ⟨h1, h2⟩
  · exact hs.jobs.of_eq h1 h2
  · exact .of_none h1 h2

/-- What runs on the NEU, and what is queued, reacts. -/
theorem reacts_of_job {i : Instr} (h : (executorOf i).onNeu = true ∨ executorOf i = .queued) :
    doesNotReact i = false := by
  cases i with
  | fdisi | feni | fwait => exact absurd h (by decide)
  | fstcw m | fstsw m | reservedM a b m | reservedR a b k => exact absurd h (by simp [executorOf, Executor.onNeu])
  | _ => rfl

/-! ### Running a job -/

theorem runJob_next {s t : State} {j : Job} (h : s.runJob j = .next t) :
    ∃ u, exec j.instr { s with port := j.port } = .next u ∧ t = { u with port := s.port } := by
  unfold State.runJob at h
  split at h
  · next u hu => exact ⟨u, hu, (Host.Outcome.next.inj h).symm⟩
  all_goals exact nomatch h

theorem runJob_of_exec {s u : State} {j : Job} (h : exec j.instr { s with port := j.port } = .next u) :
    s.runJob j = .next { u with port := s.port } := by
  unfold State.runJob
  rw [h]

/-- What a job's run does with the state, its own port put aside. -/
structure JobRun (s t : State) (j : Job) : Prop where
  sound : Sound t
  jobs : t.neu = s.neu ∧ t.queued = s.queued ∨ t.neu = none ∧ t.queued = none

theorem runJob_run {s t : State} {j : Job} (h : s.runJob j = .next t) (hm : s.mem.wf = true) (hc : s.conf.wf = true)
    (hr : doesNotReact j.instr = false) : JobRun s t j := by
  obtain ⟨u, hu, rfl⟩ := runJob_next h
  obtain ⟨h1, ⟨h2, h3, h4⟩, h5⟩ := exec_sound hu hm hc fun hn => absurd (hr.symm.trans hn) (by simp)
  have hjobs := exec_jobs hu
  exact ⟨⟨h1, ⟨h2, h3, h4⟩, h5⟩, hjobs⟩

theorem Job.hit_lt {j : Job} (h : ∀ x ∈ j.addresses, x < 2 ^ 20) : ∀ x ∈ j.hit, x < 2 ^ 20 :=
  fun x hx => h x (List.mem_filter.mp hx).1

/-- The three ways of a job whose operand may have been written meanwhile. -/
theorem runRaced_cases {s t : State} {j : Job} (h : s.runRaced j = .next t) :
    j.hit = [] ∧ s.runJob j = .next t ∨
    (isStore j.instr = true ∧ ∃ u, s.runJob j = .next u ∧
      t = { u with mem := Memory.merge s.mem u.mem s.draws j.hit, draws := u.draws + 1 }) ∨
    (isStore j.instr = false ∧ ∃ u, State.runJob { s with mem := s.mem.blur s.draws j.hit } j = .next u ∧
      t = { u with mem := s.mem, draws := u.draws + 1 }) := by
  unfold State.runRaced at h
  split at h
  · next hh => exact .inl ⟨hh, h⟩
  · split at h
    · next hs =>
      split at h
      · next u hu => exact .inr (.inl ⟨hs, u, hu, (Host.Outcome.next.inj h).symm⟩)
      all_goals exact nomatch h
    · next hs =>
      split at h
      · next u hu => exact .inr (.inr ⟨Bool.eq_false_of_not_eq_true hs, u, hu, (Host.Outcome.next.inj h).symm⟩)
      all_goals exact nomatch h

theorem runRaced_run {s t : State} {j : Job} (h : s.runRaced j = .next t) (hm : s.mem.wf = true)
    (hc : s.conf.wf = true) (hr : doesNotReact j.instr = false) : JobRun s t j := by
  rcases runRaced_cases h with ⟨-, hj⟩ | ⟨-, u, hj, rfl⟩ | ⟨-, u, hj, rfl⟩
  · exact runJob_run hj hm hc hr
  · obtain ⟨⟨h1, ⟨h2, h3, h4⟩, h5⟩, h6⟩ := runJob_run hj hm hc hr
    exact ⟨⟨Memory.wf_merge _ _ _ _ (Job.hit_lt (Job.addresses_lt hj)) h1, ⟨h2, h3, h4⟩, h5⟩, h6⟩
  · have hb := Memory.wf_blur s.mem s.draws j.hit (Job.hit_lt (Job.addresses_lt hj)) hm
    obtain ⟨⟨h1, ⟨h2, h3, h4⟩, h5⟩, h6⟩ := runJob_run hj hb hc hr
    exact ⟨⟨hm, ⟨h2, h3, h4⟩, h5⟩, h6⟩

theorem keepPointers_eq (s t : State) (i : Instr) : s.keepPointers t i =
    { t with
      iptr := (s.keepPointers t i).iptr
      opc := (s.keepPointers t i).opc
      dptr := (s.keepPointers t i).dptr } := by
  unfold State.keepPointers; split <;> rfl

theorem Sound.keepPointers {s t : State} {i : Instr} (h : Sound t) : Sound (s.keepPointers t i) := by
  obtain ⟨h1, ⟨h2, h3, h4⟩, h5⟩ := h
  rw [keepPointers_eq]
  exact ⟨h1, ⟨h2, h3, h4⟩, h5⟩

/-- A completion ends with the NEU idle and nothing queued. -/
theorem complete_inv {s t : State} {j : Job} (h : s.complete j = .next t) (hs : s.Inv) (hj : s.neu = some j) :
    t.Inv := by
  unfold State.complete at h
  split at h
  · next r hr =>
    obtain ⟨hsound, hjobs⟩ := runRaced_run (s := { s with neu := none }) hr hs.memory hs.settings
      (reacts_of_job (.inl (hs.running j hj)))
    have hk : Sound (s.keepPointers r j.instr) := hsound.keepPointers
    have hneu : (s.keepPointers r j.instr).neu = none := by
      rw [keepPointers_eq]; rcases hjobs with ⟨h1, -⟩ | ⟨h1, -⟩ <;> exact h1
    have hq : (s.keepPointers r j.instr).queued = s.queued ∨ (s.keepPointers r j.instr).queued = none := by
      rw [keepPointers_eq]; rcases hjobs with ⟨-, h2⟩ | ⟨-, h2⟩
      · exact .inl h2
      · exact .inr h2
    generalize s.keepPointers r j.instr = k at h hk hneu hq
    dsimp only at h
    split at h
    · next hn =>
      obtain rfl := Host.Outcome.next.inj h
      exact (inv_iff _).mpr ⟨hk, .of_none hneu hn⟩
    · next q hqs =>
      have hexec : executorOf q.instr = .queued := by
        rcases hq with hq | hq
        · exact hs.waiting q (hq.symm.trans hqs)
        · exact nomatch hq.symm.trans hqs
      split at h
      · next u hu =>
        obtain rfl := Host.Outcome.next.inj h
        obtain ⟨⟨h1, ⟨h2, h3, h4⟩, h5⟩, hju⟩ := runRaced_run (s := { k with queued := none }) hu hk.memory hk.settings
          (reacts_of_job (.inr hexec))
        refine (inv_iff _).mpr ⟨⟨h1, ⟨h2, h3, h4⟩, h5⟩, ?_⟩
        rcases hju with ⟨h6, h7⟩ | ⟨h6, h7⟩
        · exact .of_none (h6.trans hneu) h7
        · exact .of_none h6 h7
      all_goals exact nomatch h
  all_goals exact nomatch h

/-! ### Starting, queueing and aborting -/

theorem startNeu_next {s t : State} {i : Instr} (h : s.startNeu i = .next t) :
    (∃ u, exec i s = .next u) ∧ t = { s.begin (i.memOp?.map fun m => (s.ea m).toNat) with
      neu := some ⟨i, s.port, []⟩, sw := { s.sw with busy := true } } := by
  unfold State.startNeu at h
  split at h
  · next u hu => exact ⟨⟨u, hu⟩, (Host.Outcome.next.inj h).symm⟩
  all_goals exact nomatch h

theorem startNeu_inv {s t : State} {i : Instr} (h : s.startNeu i = .next t) (hs : s.Inv)
    (hi : (executorOf i).onNeu = true) : t.Inv := by
  obtain ⟨-, rfl⟩ := startNeu_next h
  exact (inv_iff _).mpr ⟨⟨hs.memory, ⟨hs.pending, hs.request, rfl⟩, hs.settings⟩,
    ⟨fun j hj => Option.some.inj hj ▸ hi, hs.waiting, fun _ => rfl⟩⟩

theorem runControl_next {s t : State} {i : Instr} {o : Bool} (h : s.runControl i o = .next t) :
    ∃ u, exec i s = .next u ∧ t = if o then u.inTransit s.mem u.mem ⟨i, s.port, []⟩ else u := by
  unfold State.runControl at h
  split at h
  · next u hu => exact ⟨u, hu, (Host.Outcome.next.inj h).symm⟩
  all_goals exact nomatch h

theorem State.Inv.inTransit {s : State} (h : s.Inv) (old new : Memory) (j : Job) : (s.inTransit old new j).Inv :=
  ⟨h.memory, h.pending, h.request, h.busy, h.running, h.waiting, h.queued, h.settings⟩

theorem runControl_inv {s t : State} {i : Instr} {o : Bool} (h : s.runControl i o = .next t) (hs : s.Inv) : t.Inv := by
  obtain ⟨u, hu, rfl⟩ := runControl_next h
  split
  · exact (exec_inv hu hs).inTransit ..
  · exact exec_inv hu hs

theorem run_inv {s t : State} {i : Instr} {o : Bool} (h : s.run i o = .next t) (hs : s.Inv) : t.Inv := by
  unfold State.run at h
  split at h
  · next hx =>
    split at h
    · exact startNeu_inv h hs (by rw [hx]; rfl)
    · exact exec_inv h hs
  · next hx =>
    split at h
    · exact startNeu_inv h hs (by rw [hx]; rfl)
    · exact exec_inv h hs
  · exact runControl_inv h hs
  · exact runControl_inv h hs
  · exact exec_inv h hs

/-- Whatever the NEU was going to store, an abort leaves memory canonical. -/
theorem abort_wf {s : State} (hs : s.Inv) : s.abort.mem.wf = true := by
  refine (s.abort_read 0 (s.storedByNeu_of (Memory.wf · = true) hs.memory fun j t hj _ hr => ?_)).1
  exact (runJob_run hr hs.memory hs.settings (reacts_of_job (.inl (hs.running j hj)))).sound.memory

/-- What initialization leaves has the invariant. -/
theorem Initialized.inv {s t : State} (h : Initialized s t) (hm : s.mem.wf = true) (hc : s.conf.wf = true) : t.Inv :=
  (inv_iff t).mpr ⟨⟨h.mem ▸ hm, h.reacted, h.conf ▸ hc⟩, .of_none h.neu h.queued⟩

theorem State.abort_conf (s : State) : s.abort.conf = s.conf := by rw [State.abort_eq]

theorem touch_inv {s : State} (h : s.Inv) (xs : List Nat) : (s.touch xs).Inv := by
  have hsome : (s.touch xs).neu.isSome = s.neu.isSome := Option.isSome_map
  refine ⟨h.memory, h.pending, h.request, ?_, fun j hj => ?_, fun j hj => ?_, fun hq => ?_, h.settings⟩
  · exact h.busy.trans (congrArg (· || s.pending) hsome.symm)
  · obtain ⟨k, hk, rfl⟩ := Option.map_eq_some_iff.mp hj
    exact h.running k hk
  · obtain ⟨k, hk, rfl⟩ := Option.map_eq_some_iff.mp hj
    exact h.waiting k hk
  · exact hsome.trans (h.queued (Option.isSome_map.symm.trans hq))

theorem controlNow_inv {s t : State} {i : Instr} {o : Bool} (h : s.controlNow i o = .next t) (hs : s.Inv) : t.Inv := by
  unfold State.controlNow at h
  split at h
  · split at h
    · next hi =>
      subst hi
      exact (exec_finit_next h).inv (abort_wf hs) (s.abort_conf ▸ hs.settings)
    · exact exec_inv h hs
  · split at h
    · exact nomatch h
    · exact runControl_inv h (touch_inv hs _)

theorem queueOrRun_inv {s t : State} {i : Instr} {o : Bool} (h : s.queueOrRun i o = .next t) (hs : s.Inv)
    (hi : executorOf i = .queued) : t.Inv := by
  unfold State.queueOrRun at h
  split at h
  · exact runControl_inv h hs
  · next hn =>
    split at h
    · exact nomatch h
    · split at h
      · obtain rfl := Host.Outcome.next.inj h
        refine ⟨hs.memory, hs.pending, hs.request, hs.busy, hs.running, fun j hj => Option.some.inj hj ▸ hi,
          fun _ => ?_, hs.settings⟩
        cases hneu : s.neu with
        | none => rw [hneu] at hn; exact absurd rfl hn
        | some j => rfl
      all_goals exact nomatch h

theorem issueNow_inv {s t : State} {i : Instr} {o : Bool} (h : s.issueNow i o = .next t) (hs : s.Inv) : t.Inv := by
  unfold State.issueNow at h
  split at h
  case h_1 => exact controlNow_inv h hs
  case h_2 hx => exact queueOrRun_inv h hs hx
  all_goals
    split at h
    · exact nomatch h
    · exact run_inv h hs

/-! ### The step -/

theorem present_inv {s : State} (h : s.Inv) (e : Event) (rest : List Input) : (s.present e rest).Inv :=
  ⟨h.memory, h.pending, h.request, h.busy, h.running, h.waiting, h.queued, h.settings⟩

theorem inbox_inv {s : State} (h : s.Inv) (rest : List Input) : State.Inv { s with inbox := rest } :=
  ⟨h.memory, h.pending, h.request, h.busy, h.running, h.waiting, h.queued, h.settings⟩

theorem issue_inv {s t : State} {e : Event} {i : Instr} {rest : List Input} (h : s.issue e i rest = .next t)
    (hs : s.Inv) : t.Inv := by
  unfold State.issue at h
  split at h
  · split at h
    · next j hj => exact complete_inv h hs hj
    · split at h
      · exact nomatch h
      · exact run_inv h (present_inv hs e rest)
  · exact issueNow_inv h (present_inv hs e rest)

/-- A CPU write changes a byte of memory, the races it makes, and what an abort would leave. -/
theorem State.cpuWrite_eq (s : State) (a : Nat) (b : Byte) : s.cpuWrite a b =
    { s.touch [a] with
      mem := (s.cpuWrite a b).mem
      draws := (s.cpuWrite a b).draws
      storing := s.storing.map fun c => if c.addr.toNat = a then { c with old := b } else c } := by
  unfold State.cpuWrite
  dsimp only
  split
  · next hn =>
    have hid : (s.storing.map fun c => if c.addr.toNat = a then { c with old := b } else c) = s.storing := by
      refine (List.map_congr_left fun c hc => ?_).trans (List.map_id _)
      have hne : ¬ c.addr.toNat = a := fun he => by
        have hmem : c ∈ s.storing.filter fun c => c.addr.toNat = a := List.mem_filter.mpr ⟨hc, by simpa using he⟩
        rw [hn] at hmem
        exact absurd hmem (by simp)
      rw [if_neg hne]; rfl
    rw [hid]
    rfl
  · rfl

theorem cpuWrite_inv {s : State} (h : s.Inv) (a : Nat) (b : Byte) (ha : a < 2 ^ 20) : (s.cpuWrite a b).Inv := by
  have ht := touch_inv h [a]
  have hm := (s.cpuWrite_read a b ha h.memory).1
  rw [State.cpuWrite_eq]
  exact ⟨hm, ht.pending, ht.request, ht.busy, ht.running, ht.waiting, ht.queued, ht.settings⟩

theorem cpuRead_inv {s : State} (h : s.Inv) (a : Nat) : (s.cpuRead a).Inv := by
  unfold State.cpuRead
  split <;> exact ⟨h.memory, h.pending, h.request, h.busy, h.running, h.waiting, h.queued, h.settings⟩

/-- RESET aborts, and leaves the values of the reset table (R66). -/
theorem State.act_reset (s : State) (rest : List Input) : ∃ t, s.act .reset rest = .next t ∧
    Initialized { s.abort with inbox := rest, storing := [] } t :=
  ⟨_, rfl, rfl, rfl, rfl, rfl, rfl, rfl, rfl, rfl, rfl, rfl, rfl, rfl, rfl, rfl, rfl, rfl, rfl, rfl, rfl, rfl⟩

theorem act_inv {s t : State} {x : Input} {rest : List Input} (h : s.act x rest = .next t) (hs : s.Inv) : t.Inv := by
  cases x with
  | insn e =>
    simp only [State.act] at h
    split at h
    · split at h
      · exact issue_inv h hs
      · exact nomatch h
    · exact nomatch h
  | neuDone =>
    simp only [State.act] at h
    split at h
    · next j hj => exact complete_inv h (inbox_inv hs rest) hj
    · obtain rfl := Host.Outcome.next.inj h; exact inbox_inv hs rest
  | takeInterrupt =>
    simp only [State.act] at h
    split at h
    · obtain rfl := Host.Outcome.next.inj h; exact inbox_inv hs rest
    · exact nomatch h
  | cpuRead a =>
    simp only [State.act] at h
    split at h
    · obtain rfl := Host.Outcome.next.inj h; exact cpuRead_inv (inbox_inv hs rest) _
    · exact nomatch h
  | cpuWrite a b =>
    simp only [State.act] at h
    split at h
    · exact nomatch h
    · split at h
      · exact nomatch h
      · obtain rfl := Host.Outcome.next.inj h; exact cpuWrite_inv (inbox_inv hs rest) _ b a.isLt
  | reset =>
    obtain ⟨u, hu, hi⟩ := s.act_reset rest
    obtain rfl := Host.Outcome.next.inj (hu.symm.trans h)
    exact hi.inv (abort_wf hs) (s.abort_conf ▸ hs.settings)

/-- Settles O13: whatever the outside world does, by the agent that answers it. -/
theorem stepKeepsInvariant : Obligations.StepKeepsInvariant := by
  intro s t hs h
  unfold step at h
  split at h
  · unfold State.idle at h
    split at h
    · next j hj => exact complete_inv h hs hj
    · exact Host.Outcome.next.inj h ▸ hs
  · exact act_inv h hs

/-- Settles O14: RESET leaves nothing flagged, running or stored. -/
theorem resetHasInvariant : Obligations.ResetHasInvariant :=
  (inv_iff _).mpr ⟨⟨rfl, ⟨by decide, by decide, by decide⟩, by decide⟩, .of_none rfl rfl⟩

end Sys2Proof.Machine
end

section
/-! SUPPORT. The step in its parts: the instruction that an event brings, what an idle NDP does with it, and what waits
(spec/60_exceptions.md R470 to R476), with the statements about them. -/

namespace Sys2Proof.Machine

/-! ### The event and its instruction -/

/-- An event's instruction: the step issues what the settings make of it. -/
theorem step_insn {s : State} {e : Event} {rest : List Input} {seg : Option SegReg} {i k : Instr} {left : List Byte}
    (hin : s.inbox = .insn e :: rest) (hd : decodeFull e.bytes = .ok (seg, i, left)) (hk : s.conf.resolve i = some k) :
    step s = s.issue e k rest := by
  unfold step
  rw [hin]
  simp only [State.act, hd, hk]

theorem aliasOf_ne_fwait (op : BitVec 11) (m : Option MemOp) : aliasOf op m ≠ .fwait := by
  cases m with
  | none => exact decodeRegForm_ne_fwait _ _ _
  | some m => exact decodeMemForm_ne_fwait _ _ _

/-- No opcode stands for FWAIT but its own. -/
theorem resolve_fwait {c : Settings} {i k : Instr} (hk : c.resolve i = some k) : k = .fwait ↔ i = .fwait := by
  cases hr : isReserved i
  · rw [c.resolve_assigned i hr] at hk
    rw [Option.some.inj hk]
  · have hi : i ≠ .fwait := fun h => by subst h; exact nomatch hr
    refine iff_of_false (fun h => ?_) hi
    subst h
    unfold Settings.resolve at hk
    rw [hr, if_pos rfl] at hk
    split at hk
    · exact nomatch hk
    · exact hi (Option.some.inj hk)
    · split at hk
      · exact aliasOf_ne_fwait _ _ (Option.some.inj hk)
      · exact hi (Option.some.inj hk)

theorem State.waits_iff (s : State) (e : Event) (k : Instr) : s.waits e k = true ↔ e.wait = true ∨ k = .fwait ∨
    (executorOf k ≠ .control ∧ executorOf k ≠ .queued ∧ s.conf.nowaitRace = .asWaitForm) := by
  unfold State.waits
  cases hx : executorOf k <;> simp [or_assoc]

/-- With a WAIT the CPU has seen every store of the CU finished; without one it has not. -/
theorem present_storing {s : State} {e : Event} {rest : List Input} {seg : Option SegReg} {i : Instr} {left : List Byte}
    (hd : decodeFull e.bytes = .ok (seg, i, left)) :
    (e.wait = true ∨ i = .fwait → (s.present e rest).storing = []) ∧
    (e.wait = false → i ≠ .fwait → (s.present e rest).storing = s.storing) := by
  have hf := e.fences_iff seg i left hd
  rw [State.present_storing]
  refine ⟨fun h => by rw [if_pos (hf.mpr h)], fun h1 h2 => ?_⟩
  rw [if_neg]
  rw [hf]
  rintro (hw | hw)
  · exact absurd (h1.symm.trans hw) (by simp)
  · exact h2 hw

/-! ### Running whole, or overlapped -/

theorem State.inTransit_of_load (s : State) (old new : Memory) (j : Job) (h : isStore j.instr = false) :
    s.inTransit old new j = s := by
  unfold State.inTransit
  rw [h, if_neg (by simp)]

/-- What the CU executes and the CPU does not overlap is executed whole; so is what stores nothing. -/
theorem State.runControl_whole (s : State) (i : Instr) (o : Bool) (h : o = false ∨ isStore i = false) :
    s.runControl i o = exec i s := by
  unfold State.runControl
  cases hr : exec i s with
  | next t =>
    rcases h with rfl | h
    · rfl
    · dsimp only
      rw [t.inTransit_of_load _ _ ⟨i, s.port, []⟩ h, ite_self]
  | fault r => rfl
  | refused r => rfl

theorem State.run_whole (s : State) (i : Instr) (o : Bool)
    (h : o = false ∨ (executorOf i).onNeu = false ∧ isStore i = false) : s.run i o = exec i s := by
  unfold State.run
  split
  case h_1 hx | h_2 hx =>
    rcases h with rfl | ⟨h, -⟩
    · rfl
    · rw [hx] at h; exact nomatch h
  case h_3 | h_4 => exact s.runControl_whole i o (h.imp_right And.right)
  case h_5 => rfl

/-- An overlapped store of the CU is in transit after it. -/
theorem State.run_store {s t : State} {i : Instr} {m : MemOp} (hx : (executorOf i).onNeu = false)
    (hi : isStore i = true) (hm : i.memOp? = some m) (ht : exec i s = .next t) : s.run i true = .next { t with
      storing := transit s.mem t.mem (addresses (s.ea m).toNat (operandBytes i)) ++ t.storing } := by
  have hc : s.runControl i true = .next { t with
      storing := transit s.mem t.mem (addresses (s.ea m).toNat (operandBytes i)) ++ t.storing } := by
    unfold State.runControl
    rw [ht]
    simp only [State.inTransit, hi, Job.addresses, Job.operand, hm, if_true]
    rfl
  unfold State.run
  split
  case h_1 h | h_2 h => rw [h] at hx; exact nomatch hx
  case h_3 | h_4 => exact hc
  case h_5 h =>
    refine absurd hi (Bool.eq_false_iff.mp ?_)
    cases i with
    | fwait | reservedM | reservedR => rfl
    | _ => exact absurd h (by simp [executorOf])

theorem State.run_overlapped {s : State} {i : Instr} (hx : (executorOf i).onNeu = true) :
    s.run i true = s.startNeu i := by
  unfold State.run
  split
  case h_1 | h_2 => rfl
  case h_3 h | h_4 h | h_5 h => rw [h] at hx; exact nomatch hx

/-! ### An idle NDP -/

theorem State.touch_idle (s : State) (xs : List Nat) (hn : s.neu = none) (hq : s.queued = none) : s.touch xs = s := by
  have h (f : Job → Job) : s.neu.map f = s.neu ∧ s.queued.map f = s.queued := by
    rw [hn, hq]; exact ⟨rfl, rfl⟩
  unfold State.touch
  rw [(h _).1, (h _).2]

/-- An instruction of the CU where neither runs nor waits another. -/
theorem issueNow_idle {s : State} {k : Instr} {o : Bool} (hn : s.neu = none) (hq : s.queued = none)
    (hx : executorOf k = .control ∨ executorOf k = .queued) :
    s.issueNow k o = if k = .finit then exec k s.abort else s.run k o := by
  unfold State.issueNow State.run
  rcases hx with hx | hx <;> rw [hx]
  · dsimp only
    unfold State.controlNow
    split
    · next hm =>
      split
      · next hf => subst hf; rfl
      · refine (s.runControl_whole k o (.inr (Bool.eq_false_iff.mpr fun hc => ?_))).symm
        obtain ⟨m, hm'⟩ := isStore_memOp hc
        exact absurd (hm.symm.trans hm') (by simp)
    · next m hm =>
      rw [hq, if_neg (by simp), s.touch_idle _ hn hq, if_neg]
      intro hf
      subst hf
      exact nomatch hm
  · dsimp only
    unfold State.queueOrRun
    have hf : k ≠ .finit := fun hf => by subst hf; exact nomatch hx
    rw [if_pos (by rw [hn]; rfl), if_neg hf]

/-- On an idle NDP the step runs what the event brings; FNINIT cuts short what the CU may still be storing. -/
theorem idle_step {s : State} {e : Event} {rest : List Input} {seg : Option SegReg} {i k : Instr} {left : List Byte}
    (hin : s.inbox = .insn e :: rest) (hd : decodeFull e.bytes = .ok (seg, i, left)) (hk : s.conf.resolve i = some k)
    (hn : s.neu = none) (hq : s.queued = none) (hp : s.pending = false) : step s =
      if k = .finit then exec k (s.present e rest).abort else (s.present e rest).run k e.overlap := by
  have hidle (h : e.wait = true ∨ i = .fwait) : (s.present e rest).abort = s.present e rest :=
    State.abort_idle _ hn ((present_storing hd).1 h)
  rw [step_insn hin hd hk]
  unfold State.issue
  split
  · next hw =>
    rw [hn]
    dsimp only
    rw [hp, if_neg (by simp)]
    split
    · next hf =>
      subst hf
      rw [State.run_whole _ _ _ (.inr ⟨rfl, rfl⟩), hidle]
      rcases (s.waits_iff e .finit).mp hw with h | h | ⟨h, -⟩
      · exact .inl h
      · exact nomatch h
      · exact absurd rfl h
    · rfl
  · by_cases hx : executorOf k = .control ∨ executorOf k = .queued
    · exact issueNow_idle (s := s.present e rest) hn hq hx
    · have hf : k ≠ .finit := fun h => hx (.inl (h ▸ rfl))
      rw [if_neg hf]
      unfold State.issueNow
      split
      case h_1 h => exact absurd (.inl h) hx
      case h_2 h => exact absurd (.inr h) hx
      all_goals rw [State.present_neu, State.present_pending, hn, hp, if_neg (by simp)]

/-- Settles O7: by what an idle NDP does with an event. -/
theorem stepRunsDecodedInstruction : Obligations.StepRunsDecodedInstruction := by
  intro s e rest seg i left hin hd hn hq hp p
  refine ⟨fun hM hR => s.conf.resolve_assigned i ?_, fun k hk => ?_⟩
  · cases i with
    | reservedM a b m => exact absurd rfl (hM a b m)
    | reservedR a b r => exact absurd rfl (hR a b r)
    | _ => rfl
  · have hstep := idle_step hin hd hk hn hq hp
    refine ⟨fun hf ho => ?_, fun hf => ⟨?_, fun h => ?_⟩, fun hf ho hx => ⟨fun hi => ?_, fun m t hi hm ht => ?_⟩⟩
    · rw [hstep, if_neg hf, State.run_whole _ _ _ (.inl ho)]
    · rw [hstep, if_pos hf]
    · refine State.abort_idle _ hn ?_
      rcases h with h | h
      · exact (present_storing hd).1 (.inl h)
      · rw [State.present_storing, h, ite_self]
    · rw [hstep, if_neg hf, State.run_whole _ _ _ (.inr ⟨hx, hi⟩)]
    · rw [hstep, if_neg hf, ho]
      exact State.run_store hx hi hm ht

/-! ### Reserved opcodes -/

theorem exec_reserved {i : Instr} (h : isReserved i = true) (s : State) : exec i s = .next s := by
  cases i with
  | reservedM | reservedR => rfl
  | _ => exact nomatch h

theorem executorOf_reserved {i : Instr} (h : isReserved i = true) : executorOf i = .nobody := by
  cases i with
  | reservedM | reservedR => rfl
  | _ => exact nomatch h

/-- The opcode of an event is that of the instruction that its bytes decode to. -/
theorem opcode11_escape {e : Event} {seg : Option SegReg} {i : Instr} {left : List Byte}
    (hd : decodeFull e.bytes = .ok (seg, i, left)) (hi : i ≠ .fwait) : opcode11 e.escape = opcode11 (encode i) := by
  have happ {bs : List Byte} (h : decode bs = .ok (i, left)) : opcode11 bs = opcode11 (encode i) := by
    obtain ⟨hw, rfl⟩ := encode_of_decode bs left i h
    rcases encode_format i hw hi with ⟨a, b, m, -, he, -⟩ | ⟨a, b, k, he, -⟩ <;> rw [he]
    · cases m <;> rfl
    · rfl
  unfold Event.escape
  cases hb : e.bytes with
  | nil => rw [hb] at hd; exact nomatch hd
  | cons b rest =>
    rw [hb] at hd
    simp only [decodeFull] at hd ⊢
    split at hd
    · next hg =>
      rw [hg, if_neg (by simp)]
      split at hd
      · next hdec =>
        obtain ⟨-, rfl, rfl⟩ := Except.ok.inj hd |> Prod.mk.inj |>.imp id Prod.mk.inj
        exact happ hdec
      · exact nomatch hd
    · next g hg =>
      rw [hg, if_pos (by rfl)]
      split at hd
      · next hdec =>
        split at hd
        · exact nomatch hd
        · obtain ⟨-, rfl, rfl⟩ := Except.ok.inj hd |> Prod.mk.inj |>.imp id Prod.mk.inj
          exact happ hdec
      · exact nomatch hd

/-- What the settings make of a reserved opcode. -/
theorem resolve_reserved {c : Settings} {i : Instr} (hi : isReserved i = true) :
    (c.reserved = .refuse → c.resolve i = none) ∧ (c.reserved = .nop → c.resolve i = some i) ∧
    ∀ pairs, c.reserved = .aliased pairs →
      ((∀ x ∈ pairs, x.1 ≠ opcode11 (encode i)) → c.resolve i = some i) ∧
      ∀ front op back, pairs = front ++ (opcode11 (encode i), op) :: back →
        (∀ x ∈ front, x.1 ≠ opcode11 (encode i)) → c.resolve i = some (aliasOf op i.memOp?) := by
  have hnone {l : List (BitVec 11 × BitVec 11)} (h : ∀ x ∈ l, x.1 ≠ opcode11 (encode i)) :
      l.find? (fun k => k.1 = opcode11 (encode i)) = none :=
    List.find?_eq_none.mpr fun x hx => by simpa using h x hx
  unfold Settings.resolve
  rw [hi, if_pos rfl]
  refine ⟨fun h => by rw [h], fun h => by rw [h], fun pairs h => ⟨fun hp => ?_, fun front op back hp hf => ?_⟩⟩
  · rw [h]
    dsimp only
    rw [hnone hp]
  · rw [h]
    dsimp only
    rw [hp, List.find?_append, hnone hf]
    simp

/-- Settles O5: the setting decides what is run, and a reserved opcode itself does nothing. -/
theorem reservedOpcodesDoNothing : Obligations.ReservedOpcodesDoNothing := by
  intro i hi
  have hr : isReserved i = true := by
    rcases hi with ⟨a, b, m, rfl⟩ | ⟨a, b, k, rfl⟩ <;> rfl
  have hne {j : Instr} (h : isReserved j = false) : i ≠ j := fun he => by rw [he, h] at hr; exact nomatch hr
  refine ⟨exec_reserved hr, ?_⟩
  intro s e rest seg left hin hd hn hq hp p own
  obtain ⟨hrefuse, hnop, halias⟩ := resolve_reserved (c := s.conf) hr
  have hop := opcode11_escape hd (hne rfl)
  have hself (hk : s.conf.resolve i = some i) : step s = .next p := by
    rw [idle_step hin hd hk hn hq hp, if_neg (hne rfl),
      State.run_whole _ _ _ (.inr ⟨by rw [executorOf_reserved hr]; rfl, ?_⟩), exec_reserved hr]
    cases i with
    | reservedM | reservedR => rfl
    | _ => exact nomatch hr
  refine ⟨hop, fun hc => ?_, fun hc => hself (hnop hc), fun pairs hc => ⟨fun hx => hself ((halias pairs hc).1 hx), ?_⟩⟩
  · unfold step
    rw [hin]
    simp only [State.act, hd, hrefuse hc, hop]
    rfl
  · intro front op back hpairs hfront k
    have hk : s.conf.resolve i = some k := (halias pairs hc).2 front op back hpairs hfront
    have hstep := idle_step hin hd hk hn hq hp
    refine ⟨fun ho => ?_, fun ho hx => ?_, fun ho hx hs => ?_, fun m t ho hs hx hm ht => ?_⟩
    · rw [hstep, State.run_whole _ _ _ (.inl ho)]
      split <;> rfl
    · rw [hstep, ho, if_neg (fun hf => by rw [hf] at hx; exact nomatch hx)]
      exact State.run_overlapped hx
    · rw [hstep, State.run_whole _ _ _ (.inr ⟨hx, hs⟩)]
      split <;> rfl
    · rw [hstep, ho, if_neg (fun hf => by rw [hf] at hs; exact nomatch hs)]
      exact State.run_store hx hs hm ht

/-! ### What waits -/

theorem issue_waits {s : State} {e : Event} {k : Instr} (rest : List Input) (hw : s.waits e k = true) :
    (∀ j, s.neu = some j → s.issue e k rest = s.complete j) ∧
    (s.neu = none → s.pending = true → s.issue e k rest = .fault .endlessWait) ∧
    (s.neu = none → s.pending = false → s.issue e k rest = (s.present e rest).run k e.overlap) := by
  unfold State.issue
  rw [hw, if_pos rfl]
  refine ⟨fun j hj => by rw [hj], fun hn hp => ?_, fun hn hp => ?_⟩
  · rw [hn, hp]; rfl
  · rw [hn, hp]; rfl

/-- Settles O8: an event with a WAIT is one that waits. -/
theorem waitHoldsTheCpu : Obligations.WaitHoldsTheCpu := by
  refine ⟨?_, fun s => ⟨fun hp => ?_, fun hp => ?_⟩⟩
  · intro s e rest seg i k left hin hd hk p
    refine ⟨fun h => ?_, (present_storing hd).2⟩
    have hw : s.waits e k = true := (s.waits_iff e k).mpr (h.imp id fun hi => .inl ((resolve_fwait hk).mpr hi))
    rw [step_insn hin hd hk]
    exact ⟨(present_storing hd).1 h, issue_waits rest hw⟩
  · change execFwait s = _
    unfold execFwait
    rw [hp]; rfl
  · change execFwait s = _
    unfold execFwait
    rw [hp]; rfl

theorem State.busyLine_eq_false {s : State} : s.busyLine = false ↔ s.neu = none ∧ s.pending = false := by
  unfold State.busyLine
  rw [Bool.or_eq_false_iff, Option.isSome_eq_false_iff, Option.isNone_iff_eq_none]

/-- Settles O10: by the setting, and by the executor of the instruction. -/
theorem noWaitFormsWhileBusy : Obligations.NoWaitFormsWhileBusy := by
  intro s e rest seg i k left hin hd hw hi hk p
  have hkf : k ≠ .fwait := fun h => hi ((resolve_fwait hk).mp h)
  have hstep := step_insn hin hd hk
  have hnow (h : s.waits e k = false) : step s = p.issueNow k e.overlap := by
    rw [hstep]
    unfold State.issue
    rw [h, if_neg (by simp)]
  have hcu (h : executorOf k = .control ∨ executorOf k = .queued) : s.waits e k = false := by
    refine Bool.eq_false_iff.mpr fun hc => ?_
    rcases (s.waits_iff e k).mp hc with h1 | h1 | ⟨h1, h2, -⟩
    · exact absurd (hw.symm.trans h1) (by simp)
    · exact hkf h1
    · exact h.elim h1 h2
  refine ⟨fun hc hq => ⟨fun hrace hb => ?_, fun hrace => ?_, fun hb => ?_⟩, fun j m hj hq hkm hf hwr => ?_,
    fun hn hq ⟨m, hkm⟩ => ?_, fun hn hq ho hx => ?_⟩
  · have hwaits : s.waits e k = false := by
      refine Bool.eq_false_iff.mpr fun hcw => ?_
      rcases (s.waits_iff e k).mp hcw with h1 | h1 | ⟨-, -, h1⟩
      · exact absurd (hw.symm.trans h1) (by simp)
      · exact hkf h1
      · exact nomatch hrace.symm.trans h1
    rw [hnow hwaits]
    unfold State.issueNow
    split
    case h_1 h => exact absurd h hc
    case h_2 h => exact absurd h hq
    all_goals exact if_pos hb
  · have hwaits : s.waits e k = true := (s.waits_iff e k).mpr (.inr (.inr ⟨hc, hq, hrace⟩))
    obtain ⟨h1, h2, -⟩ := issue_waits rest hwaits
    rw [hstep]
    exact ⟨h1, h2⟩
  · obtain ⟨hn, hp⟩ := State.busyLine_eq_false.mp hb
    cases hwaits : s.waits e k
    · rw [hnow hwaits]
      unfold State.issueNow
      split
      case h_1 h => exact absurd h hc
      case h_2 h => exact absurd h hq
      all_goals
        refine if_neg ?_
        rw [State.present_neu, State.present_pending, hn, hp]
        simp
    · rw [hstep]; exact (issue_waits rest hwaits).2.2 hn hp
  · have hx : executorOf k = .queued := by rcases hkm with rfl | rfl <;> rfl
    have hmem : k.memOp? = some m := by rcases hkm with rfl | rfl <;> rfl
    obtain ⟨t, ht⟩ := (exec_meetsOperand p hmem).completes hf fun _ => hwr
    rw [hnow (hcu (.inr hx))]
    unfold State.issueNow
    rw [hx]
    change p.queueOrRun k e.overlap = _
    unfold State.queueOrRun
    rw [State.present_neu, State.present_queued, hj, hq, if_neg (by simp), if_neg (by simp), ht]
  · obtain ⟨j, hj⟩ := Option.isSome_iff_exists.mp hn
    have hx : executorOf k = .queued ∨ executorOf k = .control := by
      rcases hkm with rfl | rfl | rfl | rfl
      · exact .inl rfl
      · exact .inl rfl
      · exact .inr rfl
      · exact .inr rfl
    have hmem : k.memOp? = some m := by rcases hkm with rfl | rfl | rfl | rfl <;> rfl
    rw [hnow (hcu hx.symm)]
    unfold State.issueNow
    rcases hx with hx | hx <;> rw [hx]
    · change p.queueOrRun k e.overlap = _
      unfold State.queueOrRun
      rw [State.present_neu, State.present_queued, hj, if_neg (by simp), if_pos hq]
    · change p.controlNow k e.overlap = _
      unfold State.controlNow
      rw [hmem]
      exact if_pos hq
  · rw [hnow (hcu hx), issueNow_idle (s := p) hn hq hx, State.run_whole _ _ _ (.inl ho)]
    split <;> rfl

end Sys2Proof.Machine
end

section
/-! SUPPORT. The NEU beside the CU and the CPU: an overlapped instruction and its completion, what an abort leaves of a
store, and the races of the CPU (spec/60_exceptions.md section 1, spec/20_memory.md sections 4 and 5). -/

namespace Sys2Proof.Machine

/-! ### An overlapped instruction is the sequential one -/

theorem State.begin_begin (s : State) (ea : Option Nat) : (s.begin ea).begin ea = s.begin ea := by
  have h1 : ((s.begin ea).begin ea).iptr = (s.begin ea).iptr := by
    change (if s.recordsPointers then s.port.ia else if s.recordsPointers then s.port.ia else s.iptr) =
      if s.recordsPointers then s.port.ia else s.iptr
    split <;> rfl
  have h2 : ((s.begin ea).begin ea).opc = (s.begin ea).opc := by
    change (if s.recordsPointers then s.port.op else if s.recordsPointers then s.port.op else s.opc) =
      if s.recordsPointers then s.port.op else s.opc
    split <;> rfl
  have h3 : ((s.begin ea).begin ea).dptr = (s.begin ea).dptr := by
    cases ea with
    | none => rfl
    | some a =>
      change (if s.recordsPointers then BitVec.ofNat 20 a else if s.recordsPointers then BitVec.ofNat 20 a else s.dptr) =
        if s.recordsPointers then BitVec.ofNat 20 a else s.dptr
      split <;> rfl
  have h : (s.begin ea).begin ea = { s.begin ea with
    iptr := ((s.begin ea).begin ea).iptr, opc := ((s.begin ea).begin ea).opc
    dptr := ((s.begin ea).begin ea).dptr } := rfl
  rw [h, h1, h2, h3]

theorem State.storeBits_setBusy (s : State) (b : Bool) (a n : Nat) (x : Stored) (pop : Bool) :
    (s.setBusy b).storeBits a n x pop = s.storeBits a n x pop := by
  have h : ((s.setBusy b).store a n x.bits).popIf pop = ((s.store a n x.bits).popIf pop).setBusy b :=
    State.popIf_setBusy (s.store a n x.bits) pop b
  unfold State.storeBits State.attemptStore
  dsimp only
  rw [h]
  rfl

/-- The NEU has accepted the instruction and nothing else has happened: it does what it would have done before. -/
theorem exec_started {k : Instr} {s u : State} (hx : (executorOf k).onNeu = true) (h : exec k s = .next u) :
    exec k ((s.begin (k.memOp?.map fun m => (s.ea m).toNat)).setBusy true) = .next u := by
  have hbegin (ea : Option Nat) : ((s.begin ea).setBusy true).begin ea = (s.begin ea).setBusy true :=
    congrArg (State.setBusy · true) (s.begin_begin ea)
  by_cases hn : executorOf k = .neu
  · cases neuForm k hn with
    | register hG hm hexec =>
      rw [hm, hexec]
      rw [hexec] at h
      refine (congrArg Host.Outcome.next ?_).trans h
      rw [Option.map_none, hbegin, hG.blind]
    | @operand m G hG hm hs hexec =>
      rw [hexec] at h
      obtain ⟨hf, rfl⟩ := State.withOperand_next _ _ _ _ _ h
      rw [hm, hexec, Option.map_some, State.withOperand_fits _ _ _ _ (by exact hf)]
      refine congrArg Host.Outcome.next ?_
      change G _ (State.begin _ (some (s.ea m).toNat)) = _
      rw [hbegin, (hG _).blind]
      rfl
    | @store m x pop hc hb hm hs hexec =>
      rw [hexec] at h
      obtain ⟨hf, hw, rfl⟩ := State.withDestination_next _ _ _ _ _ _ h
      have hx := hb s (some (s.ea m).toNat) s.inbox true
      change x ((s.begin (some (s.ea m).toNat)).setBusy true) = x s at hx
      rw [hm, hexec, Option.map_some, hx]
      refine (State.withDestination_fits _ _ _ _ _ (by exact hf) (by exact hw)).trans (congrArg Host.Outcome.next ?_)
      change (State.begin _ (some (s.ea m).toNat)).storeBits (s.ea m).toNat _ _ _ = _
      rw [hbegin, State.storeBits_setBusy]
  · cases k with
    | fldcw m =>
      obtain ⟨hf, rfl⟩ := exec_fldcw_next _ _ _ h
      rw [exec_fldcw _ m (by exact hf)]
      refine congrArg Host.Outcome.next ?_
      change (State.loadControl (State.begin _ (some (s.ea m).toNat)) _).react = _
      have hb := hbegin (some (s.ea m).toNat)
      rw [show (State.begin ((s.begin (Option.map (fun m => (s.ea m).toNat) (Instr.fldcw m).memOp?)).setBusy true)
        (some (s.ea m).toNat)) = (s.begin (some (s.ea m).toNat)).setBusy true from hb]
      rfl
    | fldenv m =>
      obtain ⟨hf, rfl⟩ := exec_fldenv_next _ _ _ h
      rw [exec_fldenv _ m (by exact hf)]
      rfl
    | frstor m =>
      obtain ⟨hf, rfl⟩ := exec_frstor_next _ _ _ h
      rw [exec_frstor _ m (by exact hf)]
      unfold State.afterFrstor
      have hl : ((s.begin (Option.map (fun m => (s.ea m).toNat) (Instr.frstor m).memOp?)).setBusy true).loadEnv
        (s.ea m).toNat = s.loadEnv (s.ea m).toNat := rfl
      have hea : ((s.begin (Option.map (fun m => (s.ea m).toNat) (Instr.frstor m).memOp?)).setBusy true).ea m =
        s.ea m := rfl
      rw [hea, hl]
    | _ => first | exact absurd rfl hn | exact absurd hx (by simp [executorOf, Executor.onNeu])

/-- Whether an instruction of the NEU stops depends on the CPU's actions to come by the program among them only. -/
theorem exec_inbox {k : Instr} {s u : State} {l : List Input} (hx : (executorOf k).onNeu = true)
    (hl : ∀ x, State.isProgram { s with inbox := l } x = s.isProgram x) (h : exec k s = .next u) :
    ∃ v, exec k { s with inbox := l } = .next v := by
  have hfit (m : MemOp) (hm : k.memOp? = some m) : State.Fits { s with inbox := l } m (operandBytes k) :=
    exec_fits k s u m h hm
  cases hs : isStore k
  · exact exec_completes (fun hk => by subst hk; exact nomatch hx) fun m hm =>
      ⟨hfit m hm, fun hc => absurd (hs.symm.trans hc) (by simp)⟩
  · have hn : executorOf k = .neu := by
      cases k with
      | fldcw | fldenv | frstor => exact nomatch hs
      | _ => first | rfl | exact absurd hx (by simp [executorOf, Executor.onNeu])
    cases neuForm k hn with
    | register hG hm hexec => exact ⟨_, hexec _⟩
    | operand hG hm hs' hexec => exact absurd (hs'.symm.trans hs) (by simp)
    | @store m x pop hc hb hm hs' hexec =>
      rw [hexec] at h
      obtain ⟨hf, hw, -⟩ := State.withDestination_next _ _ _ _ _ _ h
      have hx0 : x { s with inbox := l } = x s :=
        (hb { s with inbox := l } none l s.sw.busy).symm.trans (hb s none l s.sw.busy)
      refine ⟨_, (hexec _).trans (State.withDestination_fits _ _ _ _ _ hf fun hwr y h1 h2 => ?_)⟩
      rw [hl]
      rw [hx0] at hwr
      exact hw hwr y h1 h2

/-- Completing what has only been started gives what the sequential step gives. -/
theorem complete_started {k : Instr} {p u t : State} (hx : (executorOf k).onNeu = true) (h : exec k p = .next u)
    (hq : p.queued = none)
    (ht : { t with neu := none } = (p.begin (k.memOp?.map fun m => (p.ea m).toNat)).setBusy true) :
    t.complete ⟨k, p.port, []⟩ = .next u := by
  have hfields := exec_others h (fun hf => by subst hf; exact nomatch hx) fun m hf => by subst hf; exact nomatch hx
  have hport : t.port = p.port := by have h := congrArg State.port ht; exact h
  have hhit : Job.hit ⟨k, p.port, []⟩ = [] := by
    unfold Job.hit
    rw [List.filter_eq_nil_iff]
    intro x _
    simp
  have hself : { t with neu := none, port := p.port } = (p.begin (k.memOp?.map fun m => (p.ea m).toNat)).setBusy true :=
    (congrArg (fun x : State => { x with port := p.port }) ht).trans rfl
  have hrun : State.runJob { t with neu := none } ⟨k, p.port, []⟩ = .next u := by
    rw [runJob_of_exec (u := u) ((congrArg (exec k) hself).trans (exec_started hx h))]
    refine congrArg Host.Outcome.next ?_
    change { u with port := t.port } = u
    rw [hport, ← hfields.presented]
  have hkeep : t.keepPointers u k = u := by
    unfold State.keepPointers
    split
    · rfl
    · next hl =>
      have hrec := exec_recorded h (fun hc => by rw [hc] at hx; exact nomatch hx) fun m =>
        ⟨fun hc => hl (by rw [hc]; rfl), fun hc => hl (by rw [hc]; rfl)⟩
      have hbeg := Recorded.begin p (k.memOp?.map p.ea)
      rw [Option.map_map] at hbeg
      have h1 : t.iptr = u.iptr := by
        have h := congrArg State.iptr ht
        exact Eq.trans h (hbeg.instruction.trans hrec.instruction.symm)
      have h2 : t.opc = u.opc := by
        have h := congrArg State.opc ht
        exact Eq.trans h (hbeg.opcode.trans hrec.opcode.symm)
      have h3 : t.dptr = u.dptr := by
        have h := congrArg State.dptr ht
        exact Eq.trans h (hbeg.operand.trans hrec.operand.symm)
      rw [h1, h2, h3]
  unfold State.complete State.runRaced
  rw [if_pos hhit, hrun]
  dsimp only
  rw [hkeep, hfields.queue.trans hq]

/-- Settles O9: the overlapped instruction is started, and its completion is the sequential execution. -/
theorem overlappedInstructionIsSequential : Obligations.OverlappedInstructionIsSequential := by
  intro s u e rest seg i k left hin hd hk hx hn hq hp hu
  have hfin : k ≠ .finit := fun hf => by subst hf; exact nomatch hx
  let p : State := s.present { e with overlap := false } rest
  have hseq : exec k p = .next u := by
    have hstep := idle_step (s := { s with inbox := .insn { e with overlap := false } :: rest })
      (e := { e with overlap := false }) (rest := rest) rfl hd hk hn hq hp
    rw [if_neg hfin, State.run_whole _ _ _ (.inl rfl)] at hstep
    exact hstep.symm.trans hu
  obtain ⟨v, hv⟩ := exec_inbox (l := .neuDone :: rest) hx (fun x => rfl) hseq
  have hstart : step s = .next { p.begin (k.memOp?.map fun m => (p.ea m).toNat) with
      inbox := .neuDone :: rest, neu := some ⟨k, p.port, []⟩, sw := { s.sw with busy := true } } := by
    rw [idle_step hin hd hk hn hq hp, if_neg hfin]
    change State.run { p with inbox := .neuDone :: rest } k true = _
    rw [State.run_overlapped hx]
    unfold State.startNeu
    rw [hv]
    rfl
  refine ⟨_, hstart, ?_, rfl, rfl, rfl, rfl, rfl, ⟨rfl, fun _ => rfl, fun _ => rfl⟩, fun _ => rfl⟩
  refine complete_started (t := { p.begin (k.memOp?.map fun m => (p.ea m).toNat) with
    neu := some ⟨k, p.port, []⟩, sw := { s.sw with busy := true } }) hx hseq hq ?_
  exact congrArg (fun n => { (p.begin (k.memOp?.map fun m => (p.ea m).toNat)).setBusy true with neu := n }) hn.symm

/-! ### What an abort leaves -/

theorem runJob_wf {s t : State} {j : Job} (h : s.runJob j = .next t) (hm : s.mem.wf = true) : t.mem.wf = true := by
  obtain ⟨u, hu, rfl⟩ := runJob_next h
  exact (exec_memory hu hm).wf

/-- The store of a job reaches its operand alone. -/
theorem runJob_outside {s t : State} {j : Job} {x : Nat} (h : s.runJob j = .next t) (hm : s.mem.wf = true)
    (hx : x ∉ j.addresses) : t.mem.read x = s.mem.read x := by
  obtain ⟨u, hu, rfl⟩ := runJob_next h
  have hstep := exec_memory hu hm
  cases ho : j.instr.memOp? with
  | none =>
    cases hs : isStore j.instr
    · exact congrArg (Memory.read · x) (hstep.kept hs)
    · obtain ⟨m, hm'⟩ := isStore_memOp hs
      exact absurd (ho.symm.trans hm') (by simp)
  | some m =>
    refine hstep.outside m ho x ?_
    unfold Job.addresses Job.operand at hx
    rw [ho] at hx
    have hn : ¬((j.port.ea m).toNat ≤ x ∧ x < (j.port.ea m).toNat + operandBytes j.instr) := fun hc =>
      hx ((mem_addresses ..).mpr hc)
    simp only [State.ea]
    omega

/-- The store of the running instruction, if it is one that would not stop, and what is then in transit. -/
theorem storedByNeu_cases (s : State) : s.storedByNeu = (s.mem, s.storing) ∨
    ∃ j t, s.neu = some j ∧ isStore j.instr = true ∧ State.runJob { s with neu := none } j = .next t ∧
      s.storedByNeu = (t.mem, transit s.mem t.mem j.addresses ++ s.storing) := by
  unfold State.storedByNeu
  split
  · exact .inl rfl
  · next j hj =>
    split
    · next t hs ht =>
      refine .inr ⟨j, t, hj, hs, ht, ?_⟩
      unfold State.inTransit
      rw [hs]
      rfl
    · exact .inl rfl

/-- After an abort each byte is as before it, or what the running store makes of it, or what it was before a store
of the CU. -/
theorem abort_bytes (s : State) (hm : s.mem.wf = true) (x : Nat) : s.abort.mem.read x = s.mem.read x ∨
    (∃ j u, s.neu = some j ∧ isStore j.instr = true ∧ x ∈ j.addresses ∧
      exec j.instr { s with neu := none, port := j.port } = .next u ∧ s.abort.mem.read x = u.mem.read x) ∨
    ∃ c ∈ s.storing, c.addr.toNat = x ∧ s.abort.mem.read x = c.old := by
  have hwf : s.storedByNeu.1.wf = true := s.storedByNeu_of (Memory.wf · = true) hm fun j t _ _ hr =>
    runJob_wf (s := { s with neu := none }) hr hm
  have hread := (s.abort_read x hwf).2
  rcases storedByNeu_cases s with he | ⟨j, t, hj, hs, ht, he⟩ <;> rw [he] at hread
  · rcases hread with h | ⟨c, hc, hx, h⟩
    · exact .inl h
    · exact .inr (.inr ⟨c, hc, hx, h⟩)
  · rcases hread with h | ⟨c, hc, hx, h⟩
    · by_cases hxa : x ∈ j.addresses
      · obtain ⟨u, hu, rfl⟩ := runJob_next ht
        exact .inr (.inl ⟨j, u, hj, hs, hxa, hu, h⟩)
      · exact .inl (h.trans (runJob_outside (s := { s with neu := none }) ht hm hxa))
    · rcases List.mem_append.mp hc with hc | hc
      · obtain ⟨-, hold, -⟩ := mem_transit _ _ _ c (Job.addresses_lt ht) hc
        exact .inl (h.trans (hold.trans (by rw [hx])))
      · exact .inr (.inr ⟨c, hc, hx, h⟩)

theorem Initialized.words {s t : State} (h : Initialized s t) : t.cw.toBits = 0x03FF ∧ tagWord t.tags = 0xFFFF ∧
    t.busyLine = false ∧ t.intLine = false := by
  refine ⟨by rw [h.cw]; rfl, by rw [h.tags]; rfl, ?_, ?_⟩
  · rw [State.busyLine, h.neu, h.pending]; rfl
  · rw [State.intLine, h.ir]; rfl

/-- Settles O15: RESET aborts and initializes. -/
theorem resetValues : Obligations.ResetValues := by
  refine ⟨⟨rfl, rfl, rfl, rfl, rfl, rfl, rfl, rfl, rfl, rfl, rfl, rfl⟩, fun s rest hin => ?_⟩
  obtain ⟨t, hact, hi⟩ := s.act_reset rest
  have hstep : step s = .next t := by
    unfold step
    rw [hin]
    exact hact
  obtain ⟨hcw, htag, hbusy, hint⟩ := hi.words
  have hmem : t.mem = s.abort.mem := hi.mem
  refine ⟨t, hstep, ⟨hcw, htag, hi.top, hi.ex, hi.ir, hi.busy, hi.neu, hi.pending, hi.queued, hi.storing, hbusy, hint⟩,
    ?_, ?_, ?_, ?_, hi.inbox, ?_, ?_, fun hn hs => ?_, fun hm x => ?_⟩
  · rw [hi.regs]; change s.abort.regs = _; rw [State.abort_eq]
  · rw [hi.iptr]; change s.abort.iptr = _; rw [State.abort_eq]
  · rw [hi.opc]; change s.abort.opc = _; rw [State.abort_eq]
  · rw [hi.dptr]; change s.abort.dptr = _; rw [State.abort_eq]
  · rw [hi.conf]; exact s.abort_conf
  · rw [hi.code]; change s.abort.code = _; rw [State.abort_eq]
  · rw [hmem, s.abort_idle hn hs]
  · rw [hmem]; exact abort_bytes s hm x

end Sys2Proof.Machine
end

section
/-! SUPPORT. The CU while the NEU runs, and the CPU's accesses and interrupt beside the NDP (spec/46_processor_control.md
section 1, spec/20_memory.md section 5, spec/60_exceptions.md section 5). -/

namespace Sys2Proof.Machine

/-! ### The CU while the NEU runs -/

/-- A no-wait instruction of the CU is executed now. -/
theorem control_step {s : State} {e : Event} {rest : List Input} {seg : Option SegReg} {i : Instr} {left : List Byte}
    (hin : s.inbox = .insn e :: rest) (hd : decodeFull e.bytes = .ok (seg, i, left)) (hw : e.wait = false)
    (hx : executorOf i = .control) : step s = (s.present e rest).controlNow i e.overlap := by
  have hi : isReserved i = false := by
    cases i with
    | reservedM | reservedR => exact nomatch hx
    | _ => rfl
  rw [step_insn hin hd (s.conf.resolve_assigned i hi)]
  unfold State.issue
  rw [if_neg]
  · unfold State.issueNow
    rw [hx]
  · rw [State.waits_iff, hw]
    rintro (h | h | ⟨h, -⟩)
    · exact nomatch h
    · rw [h] at hx; exact nomatch hx
    · exact h hx

theorem Job.touch_raced (j : Job) (xs : List Nat) (x : Nat) :
    x ∈ (j.touch xs).raced ↔ x ∈ j.raced ∨ x ∈ j.addresses ∧ x ∈ xs := by
  unfold Job.touch
  rw [List.mem_append, List.mem_filter, decide_eq_true_iff, or_comm, and_comm]

/-- What FSTCW and FSTSW do beside a running instruction: their store, and the race with its operand. -/
theorem controlStore_step {s : State} {e : Event} {rest : List Input} {seg : Option SegReg} {i : Instr}
    {left : List Byte} {j : Job} {m : MemOp} (hin : s.inbox = .insn e :: rest)
    (hd : decodeFull e.bytes = .ok (seg, i, left)) (hw : e.wait = false) (hj : s.neu = some j)
    (hi : i = .fstcw m ∨ i = .fstsw m) (hq : s.queued = none) (hf : (s.present e rest).Fits m 2)
    (hwr : (s.present e rest).Writable m 2) :
    ∃ t, exec i (s.present e rest) = .next t ∧ Completes (step s) fun u =>
      u.mem = t.mem ∧ u.regs = s.regs ∧ u.tags = s.tags ∧ u.sw = s.sw ∧ u.cw = s.cw ∧
      Recorded (s.present e rest) u (some ((s.present e rest).ea m)) ∧
      u.neu = some { j with raced := u.neu.elim [] (·.raced) } ∧
      ∀ x, x ∈ u.neu.elim [] (·.raced) ↔ x ∈ j.raced ∨
        (x ∈ j.addresses ∧ ((s.present e rest).ea m).toNat ≤ x ∧ x < ((s.present e rest).ea m).toNat + 2) := by
  have hx : executorOf i = .control := by rcases hi with rfl | rfl <;> rfl
  have hm : i.memOp? = some m := by rcases hi with rfl | rfl <;> rfl
  have hn : operandBytes i = 2 := by rcases hi with rfl | rfl <;> rfl
  rw [control_step hin hd hw hx]
  generalize hp : s.present e rest = p at hf hwr
  have hpj : p.neu = some j := by rw [← hp]; exact hj
  have hpq : p.queued = none := by rw [← hp]; exact hq
  obtain ⟨h1, h2, h3, h4⟩ : s.regs = p.regs ∧ s.tags = p.tags ∧ s.sw = p.sw ∧ s.cw = p.cw := by
    rw [← hp]; exact ⟨rfl, rfl, rfl, rfl⟩
  generalize hxs : addresses (p.ea m).toNat 2 = xs
  have hraced (x : Nat) : x ∈ (j.touch xs).raced ↔ x ∈ j.raced ∨
      (x ∈ j.addresses ∧ (p.ea m).toNat ≤ x ∧ x < (p.ea m).toNat + 2) := by
    rw [Job.touch_raced, ← hxs, mem_addresses]
  have hnow : p.controlNow i e.overlap = (p.touch xs).runControl i e.overlap := by
    unfold State.controlNow
    rw [hm, hpq]
    dsimp only
    rw [hn, hxs]
    exact if_neg (by simp)
  have hrun {u : State} (hu : exec i (p.touch xs) = .next u) :
      ∃ st, (p.touch xs).runControl i e.overlap = .next { u with storing := st } := by
    unfold State.runControl
    rw [hu]
    cases e.overlap
    · exact ⟨u.storing, rfl⟩
    · exact ⟨_, rfl⟩
  rw [hnow, h1, h2, h3, h4]
  have hneu {u : State} (hu : u.neu = p.neu.map (·.touch xs)) :
      u.neu = some { j with raced := u.neu.elim [] (·.raced) } ∧
        ∀ x, x ∈ u.neu.elim [] (·.raced) ↔ x ∈ j.raced ∨
          (x ∈ j.addresses ∧ (p.ea m).toNat ≤ x ∧ x < (p.ea m).toNat + 2) := by
    rw [hu, hpj]
    exact ⟨rfl, hraced⟩
  rcases hi with rfl | rfl
  · obtain ⟨st, hst⟩ := hrun (exec_fstcw (p.touch xs) m hf hwr)
    obtain ⟨hn1, hn2⟩ := hneu (u := (p.touch xs).afterFstcw m) rfl
    exact ⟨_, exec_fstcw p m hf hwr, _, hst, rfl, rfl, rfl, rfl, rfl,
      (Recorded.begin_operand p m).of_eq rfl rfl rfl, hn1, hn2⟩
  · obtain ⟨st, hst⟩ := hrun (exec_fstsw (p.touch xs) m hf hwr)
    obtain ⟨hn1, hn2⟩ := hneu (u := (p.touch xs).afterFstsw m) rfl
    exact ⟨_, exec_fstsw p m hf hwr, _, hst, rfl, rfl, rfl, rfl, rfl,
      (Recorded.begin_operand p m).of_eq rfl rfl rfl, hn1, hn2⟩

/-- FDISI, FENI and FCLEX beside a running instruction. -/
theorem controlRegister_step {s : State} {e : Event} {rest : List Input} {seg : Option SegReg} {i : Instr}
    {left : List Byte} {j : Job} (hin : s.inbox = .insn e :: rest) (hd : decodeFull e.bytes = .ok (seg, i, left))
    (hw : e.wait = false) (hj : s.neu = some j) (hi : i ∈ [Instr.fdisi, .feni, .fclex]) :
    step s = exec i (s.present e rest) ∧ Completes (step s) fun t => t.neu = some j := by
  simp only [List.mem_cons, List.not_mem_nil, or_false] at hi
  have hx : executorOf i = .control := by rcases hi with rfl | rfl | rfl <;> rfl
  have hm : i.memOp? = none := by rcases hi with rfl | rfl | rfl <;> rfl
  have hf : i ≠ .finit := by rcases hi with rfl | rfl | rfl <;> simp
  have hstep : step s = exec i (s.present e rest) := by
    rw [control_step hin hd hw hx]
    unfold State.controlNow
    rw [hm]
    exact if_neg hf
  obtain ⟨t, ht⟩ := exec_completes_register (i := i) (s.present e rest) hm (by rcases hi with rfl | rfl | rfl <;> simp)
  refine ⟨hstep, t, hstep.trans ht, ?_⟩
  exact (exec_others ht hf (by rcases hi with rfl | rfl | rfl <;> simp)).neu.trans hj

/-- What FINIT leaves of a state, with the exception pointers. -/
theorem exec_finit_recorded {s t : State} (h : exec .finit s = .next t) : Recorded s t none :=
  exec_recorded h (by simp [executorOf]) (by simp)

theorem Recorded.of_abort {p t : State} (h : Recorded p.abort t none) : Recorded p t none := by
  obtain ⟨h1, h2, h3⟩ := h
  rw [State.abort_eq] at h1 h2 h3
  exact ⟨h1, h2, h3⟩

/-- FNINIT, whatever runs. -/
theorem finit_step {s : State} {e : Event} {rest : List Input} {seg : Option SegReg} {left : List Byte} (hs : s.Inv)
    (hin : s.inbox = .insn e :: rest) (hd : decodeFull e.bytes = .ok (seg, .finit, left)) (hw : e.wait = false) :
    Completes (step s) fun t =>
      t.neu = none ∧ t.queued = none ∧ t.pending = false ∧ t.busyLine = false ∧ t.intLine = false ∧
      t.sw.busy = false ∧ t.cw.toBits = 0x03FF ∧ tagWord t.tags = 0xFFFF ∧ t.regs = s.regs ∧
      Recorded (s.present e rest) t none ∧
      (∀ x, t.mem.read x = s.mem.read x ∨
        (∃ j u, s.neu = some j ∧ isStore j.instr = true ∧ x ∈ j.addresses ∧
          exec j.instr { s.present e rest with neu := none, port := j.port } = .next u ∧
          t.mem.read x = u.mem.read x) ∨
        ∃ c ∈ s.storing, c.addr.toNat = x ∧ t.mem.read x = c.old) ∧
      ∀ c ∈ t.storing, t.mem.read c.addr.toNat = c.old := by
  have hstep : step s = exec .finit (s.present e rest).abort := control_step hin hd hw rfl
  have hstoring : (s.present e rest).storing = s.storing := (present_storing hd).2 hw (by simp)
  have hbytes := abort_bytes (s.present e rest) hs.memory
  have hold := (s.present e rest).abort_storing
  obtain ⟨t, ht⟩ : ∃ t, exec .finit (s.present e rest).abort = .next t := ⟨_, rfl⟩
  have hi := exec_finit_next ht
  obtain ⟨hcw, htag, hbusy, hint⟩ := hi.words
  have hmem : t.mem = (s.present e rest).abort.mem := hi.mem
  have hst : t.storing = (s.present e rest).abort.storing := hi.storing
  refine ⟨t, hstep.trans ht, hi.neu, hi.queued, hi.pending, hbusy, hint, hi.busy, hcw, htag, ?_,
    (exec_finit_recorded ht).of_abort, fun x => ?_, fun c hc => ?_⟩
  · rw [hi.regs]; change (s.present e rest).abort.regs = _; rw [State.abort_eq]; rfl
  · rw [hmem]
    rcases hbytes x with h | h | ⟨c, hc, h⟩
    · exact .inl h
    · exact .inr (.inl h)
    · exact .inr (.inr ⟨c, hstoring ▸ hc, h⟩)
  · rw [hst] at hc; rw [hmem]; exact (hold c hc).symm

/-! ### The completion -/

/-- The completion of an instruction whose operand nobody else has written, up to what is queued. -/
theorem complete_unraced {s t : State} {j : Job} (hh : j.hit = [])
    (ht : exec j.instr { s with neu := none, port := j.port } = .next t) :
    State.runRaced { s with neu := none } j = .next { t with port := s.port } := by
  unfold State.runRaced
  rw [if_pos hh]
  exact runJob_of_exec (s := { s with neu := none }) ht

theorem step_neuDone {s : State} {rest : List Input} {j : Job} (hin : s.inbox = .neuDone :: rest)
    (hj : s.neu = some j) : step s = State.complete { s with inbox := rest } j := by
  unfold step
  rw [hin]
  simp only [State.act, hj]

/-- What is queued runs in the wake of the completion, on what that left, and its operand is then in transit. -/
theorem complete_queued {s r k u : State} {j q : Job} (hr : State.runRaced { s with neu := none } j = .next r)
    (hk : s.keepPointers r j.instr = k) (hkq : k.queued = some q) (hqh : q.hit = []) (hs : isStore q.instr = true)
    (hu : exec q.instr { k with queued := none, port := q.port } = .next u) :
    s.complete j = .next { u with port := k.port, storing := transit k.mem u.mem q.addresses ++ u.storing } := by
  have hrun : State.runJob { k with queued := none } q = .next { u with port := k.port } :=
    runJob_of_exec (s := { k with queued := none }) hu
  have hstored : State.stored { k with queued := none } q = u.mem := by
    rw [State.stored_eq hrun, if_pos hs]
  unfold State.complete
  rw [hr]
  dsimp only
  rw [hk, hkq]
  dsimp only
  unfold State.runRaced
  rw [if_pos hqh, hrun]
  dsimp only
  rw [hstored]
  unfold State.inTransit
  rw [hs, if_pos rfl]

/-- The pointers that the completion leaves, the port put back. -/
theorem keepPointers_port (s t : State) (i : Instr) (p : Port) (l : List Input) :
    State.keepPointers { s with inbox := l } { t with port := p } i =
      { (if loadsPointers i then t else { t with iptr := s.iptr, opc := s.opc, dptr := s.dptr }) with port := p } := by
  unfold State.keepPointers
  split <;> rfl

/-- A queued FNSAVE or FNSTENV runs in the wake of the completion. -/
theorem queued_step {s t r : State} {rest : List Input} {j q : Job} {m : MemOp} (hs : s.Inv)
    (hin : s.inbox = .neuDone :: rest) (hj : s.neu = some j) (hq : s.queued = some q) (hjh : j.hit = [])
    (hqh : q.hit = []) (ht : exec j.instr { s with inbox := rest, neu := none, port := j.port } = .next t)
    (hqi : q.instr = .fsave m ∨ q.instr = .fstenv m)
    (hr : r = if loadsPointers j.instr then t else { t with iptr := s.iptr, opc := s.opc, dptr := s.dptr })
    (hf : State.Fits { r with queued := none, port := q.port } m (operandBytes q.instr))
    (hw : State.Writable { r with queued := none, port := q.port } m (operandBytes q.instr)) :
    ∃ u, exec q.instr { r with queued := none, port := q.port } = .next u ∧
      step s = .next { u with
        port := s.port
        storing := transit t.mem u.mem (addresses (q.port.ea m).toNat (operandBytes q.instr)) ++ u.storing } := by
  have hm : q.instr.memOp? = some m := by rcases hqi with h | h <;> rw [h] <;> rfl
  have hstore : isStore q.instr = true := by rcases hqi with h | h <;> rw [h] <;> rfl
  have honNeu := hs.running j hj
  have htq : t.queued = some q := (exec_others ht (fun hc => by rw [hc] at honNeu; exact nomatch honNeu)
    fun m hc => by rw [hc] at honNeu; exact nomatch honNeu).queue.trans hq
  have hrq : r.queued = some q := by rw [hr]; split <;> exact htq
  have hrm : r.mem = t.mem := by rw [hr]; split <;> rfl
  have hkeep := keepPointers_port s t j.instr s.port rest
  rw [← hr] at hkeep
  have haddr : q.addresses = addresses (q.port.ea m).toNat (operandBytes q.instr) := by
    unfold Job.addresses Job.operand
    rw [hm]
    rfl
  obtain ⟨u, hu⟩ := (exec_meetsOperand { r with queued := none, port := q.port } hm).completes hf fun _ => hw
  have hrun := complete_unraced (s := { s with inbox := rest }) hjh ht
  refine ⟨u, hu, (step_neuDone hin hj).trans ?_⟩
  rw [complete_queued hrun hkeep hrq hqh hstore hu, haddr, hrm]

/-- Settles O11: instruction by instruction of the CU, and by the completion. -/
theorem controlUnitWhileTheNeuRuns : Obligations.ControlUnitWhileTheNeuRuns :=
  ⟨fun _ _ _ _ _ _ _ _ hin hd hw hj => ⟨controlRegister_step hin hd hw hj,
      fun _ hi hq hf hwr => controlStore_step hin hd hw hj hi hq hf hwr⟩,
    fun _ _ _ _ _ hs hin hd hw => finit_step hs hin hd hw,
    fun _ _ _ _ _ _ hs hin hj hq hjh hqh ht hqi hf hw => queued_step hs hin hj hq hjh hqh ht hqi rfl hf hw⟩

/-! ### The CPU -/

theorem cpuRead_step {s : State} {a : Addr} {rest : List Input} (hin : s.inbox = .cpuRead a :: rest) :
    (s.allocated a.toNat = false → step s = .fault (.unallocated a.toNat)) ∧
    (s.allocated a.toNat = true → Completes (step s) fun t =>
      t = { s with inbox := rest, cpuData := t.cpuData, draws := t.draws } ∧
      ((∀ c ∈ s.storing, c.addr.toNat ≠ a.toNat) →
        (∀ j, s.neu = some j ∨ s.queued = some j → isStore j.instr = true → a.toNat ∉ j.addresses) →
        t.cpuData = s.mem.read a.toNat)) := by
  have hstep : step s = if s.allocated a.toNat then .next (State.cpuRead { s with inbox := rest } a.toNat)
      else .fault (.unallocated a.toNat) := by
    unfold step; rw [hin]; rfl
  refine ⟨fun h => by rw [hstep, h, if_neg (by simp)], fun h => ⟨_, by rw [hstep, h, if_pos rfl], ?_, fun hst hjob => ?_⟩⟩
  · unfold State.cpuRead
    split <;> rfl
  · have hsettled : State.unsettled { s with inbox := rest } a.toNat = false := by
      unfold State.unsettled
      rw [Bool.or_eq_false_iff, List.any_eq_false, List.any_eq_false]
      refine ⟨fun c hc => by simpa using hst c hc, fun j hj => ?_⟩
      have hj' : s.neu = some j ∨ s.queued = some j := by
        rcases List.mem_append.mp hj with h | h
        · exact .inl (Option.mem_toList.mp h)
        · exact .inr (Option.mem_toList.mp h)
      simpa using hjob j hj'
    unfold State.cpuRead
    rw [hsettled, if_neg (by simp)]

theorem cpuWrite_step {s : State} {a : Addr} {b : Byte} {rest : List Input} (hs : s.Inv)
    (hin : s.inbox = .cpuWrite a b :: rest) :
    (s.allocated a.toNat = false → step s = .fault (.unallocated a.toNat)) ∧
    ((∃ r ∈ s.conf.program ++ s.code, r.has a.toNat = true) → s.isProgram a.toNat = true) ∧
    (s.allocated a.toNat = true → s.isProgram a.toNat = true → step s = .refused (.storeIntoProgram a.toNat)) ∧
    (s.allocated a.toNat = true → s.isProgram a.toNat = false → Completes (step s) fun t =>
      t = { s with
        inbox := rest
        mem := t.mem
        neu := t.neu
        queued := t.queued
        draws := t.draws
        storing := s.storing.map fun c => if c.addr.toNat = a.toNat then { c with old := b } else c } ∧
      (∀ x, x ≠ a.toNat → t.mem.read x = s.mem.read x) ∧
      (t.mem.read a.toNat = b ∨ ∃ c ∈ s.storing, c.addr.toNat = a.toNat ∧ t.mem.read a.toNat = c.new) ∧
      ∀ j, s.neu = some j → (j.addresses.contains a.toNat = false → t.neu = some j) ∧
        (a.toNat ∈ j.addresses → t.neu = some { j with raced := a.toNat :: j.raced })) := by
  have hstep : step s = if !s.allocated a.toNat then .fault (.unallocated a.toNat)
      else if s.isProgram a.toNat then .refused (.storeIntoProgram a.toNat)
      else .next (State.cpuWrite { s with inbox := rest } a.toNat b) := by
    unfold step; rw [hin]; rfl
  refine ⟨fun h => by rw [hstep, h]; rfl, fun ⟨r, hr, ha⟩ => ?_, fun h hp => by rw [hstep, h, hp]; rfl,
    fun h hp => ⟨_, by rw [hstep, h, hp]; rfl, ?_, ?_, ?_, fun j hj => ?_⟩⟩
  · unfold State.isProgram
    rw [Bool.or_eq_true, Bool.or_eq_true, List.any_eq_true, List.any_eq_true]
    rcases List.mem_append.mp hr with hr | hr
    · exact .inl (.inl ⟨r, hr, ha⟩)
    · exact .inl (.inr ⟨r, hr, ha⟩)
  · rw [State.cpuWrite_eq]; rfl
  · exact (State.cpuWrite_read { s with inbox := rest } a.toNat b a.isLt hs.memory).2.1
  · exact (State.cpuWrite_read { s with inbox := rest } a.toNat b a.isLt hs.memory).2.2
  · have hneu : (State.cpuWrite { s with inbox := rest } a.toNat b).neu = some (j.touch [a.toNat]) := by
      rw [State.cpuWrite_eq]
      exact congrArg (Option.map (·.touch [a.toNat])) hj
    rw [hneu]
    unfold Job.touch
    refine ⟨fun hc => ?_, fun hc => ?_⟩
    · have hn : a.toNat ∉ j.addresses := by simpa using hc
      simp [hn]
    · simp [hc]

/-- The completion of an instruction while nothing is queued. -/
theorem complete_alone {s r : State} {j : Job} (hr : State.runRaced { s with neu := none } j = .next r)
    (hq : r.queued = none) : s.complete j = .next (s.keepPointers r j.instr) := by
  have hk : (s.keepPointers r j.instr).queued = none := by rw [keepPointers_eq]; exact hq
  unfold State.complete
  rw [hr]
  dsimp only
  rw [hk]

theorem hit_eq_nil {j : Job} : j.hit = [] ↔ ∀ x ∈ j.raced, x ∉ j.addresses := by
  unfold Job.hit
  rw [List.filter_eq_nil_iff]
  exact ⟨fun h x hx hc => by simpa [hx] using h x hc, fun h x hx => by simpa using fun hc => h x hc hx⟩

/-- A running load meets only memory that the CPU has written: it completes all the same. -/
theorem runJob_blurred {s t : State} {j : Job} {mem : Memory} (hx : (executorOf j.instr).onNeu = true)
    (hs : isStore j.instr = false) (ht : exec j.instr { s with port := j.port } = .next t) :
    ∃ u, State.runJob { s with mem := mem } j = .next u := by
  obtain ⟨u, hu⟩ := exec_completes (i := j.instr) (s := { s with mem := mem, port := j.port })
    (fun hc => by rw [hc] at hx; exact nomatch hx) fun m hm =>
      ⟨(exec_fits _ { s with port := j.port } t m ht hm :), fun hc => absurd (hs.symm.trans hc) (by simp)⟩
  exact ⟨_, runJob_of_exec (s := { s with mem := mem }) hu⟩

theorem runRaced_store {s t : State} {j : Job} (hh : j.hit ≠ []) (hs : isStore j.instr = true)
    (h : s.runJob j = .next t) : s.runRaced j = .next
      { t with mem := Memory.merge s.mem t.mem s.draws j.hit, draws := t.draws + 1 } := by
  unfold State.runRaced
  rw [if_neg hh, if_pos hs, h]

theorem runRaced_load {s t : State} {j : Job} (hh : j.hit ≠ []) (hs : isStore j.instr = false)
    (h : State.runJob { s with mem := s.mem.blur s.draws j.hit } j = .next t) :
    s.runRaced j = .next { t with mem := s.mem, draws := t.draws + 1 } := by
  unfold State.runRaced
  rw [if_neg hh, if_neg (by rw [hs]; simp), h]

theorem completion_step {s t : State} {rest : List Input} {j : Job} (hs : s.Inv) (hin : s.inbox = .neuDone :: rest)
    (hj : s.neu = some j) (hq : s.queued = none)
    (ht : exec j.instr { s with inbox := rest, neu := none, port := j.port } = .next t) :
    ((∀ x ∈ j.raced, x ∉ j.addresses) → step s = .next
      (if loadsPointers j.instr then { t with port := s.port }
      else { t with port := s.port, iptr := s.iptr, opc := s.opc, dptr := s.dptr })) ∧
    (isStore j.instr = true → Completes (step s) fun u =>
      u.regs = t.regs ∧ u.tags = t.tags ∧ u.sw = t.sw ∧
      ∀ x, u.mem.read x = t.mem.read x ∨
        (x ∈ j.raced ∧ x ∈ j.addresses ∧ u.mem.read x = s.mem.read x)) ∧
    (isStore j.instr = false → Completes (step s) fun u => MemoryKept s u) := by
  have honNeu := hs.running j hj
  have htq : t.queued = none := (exec_others ht (fun hc => by rw [hc] at honNeu; exact nomatch honNeu)
    fun m hc => by rw [hc] at honNeu; exact nomatch honNeu).queue.trans hq
  have hunraced (hh : j.hit = []) : step s = .next
      (State.keepPointers { s with inbox := rest } { t with port := s.port } j.instr) :=
    (step_neuDone hin hj).trans (complete_alone (complete_unraced (s := { s with inbox := rest }) hh ht) htq)
  have hmemory := exec_memory ht hs.memory
  have hjob := runJob_of_exec (s := { s with inbox := rest, neu := none }) ht
  refine ⟨fun hh => ?_, fun hst => ?_, fun hst => ?_⟩
  · rw [hunraced (hit_eq_nil.mpr hh)]
    unfold State.keepPointers
    split <;> rfl
  · by_cases hh : j.hit = []
    · refine ⟨_, hunraced hh, ?_⟩
      rw [keepPointers_eq]
      exact ⟨rfl, rfl, rfl, fun x => .inl rfl⟩
    · have hrace := runRaced_store (s := { s with inbox := rest, neu := none }) hh hst hjob
      refine ⟨_, (step_neuDone hin hj).trans (complete_alone hrace htq), ?_⟩
      rw [keepPointers_eq]
      refine ⟨rfl, rfl, rfl, fun x => ?_⟩
      have hread := Memory.read_merge s.mem t.mem s.draws j.hit x (Job.hit_lt (Job.addresses_lt hjob)) hmemory.wf
      dsimp only
      rw [hread]
      by_cases hc : x ∈ j.hit ∧ Config.freeKeeps s.draws x = true
      · obtain ⟨hxa, hxr⟩ := List.mem_filter.mp hc.1
        exact .inr ⟨by simpa using hxr, hxa, if_pos hc⟩
      · exact .inl (if_neg hc)
  · by_cases hh : j.hit = []
    · refine ⟨_, hunraced hh, fun x => ?_⟩
      rw [keepPointers_eq]
      exact congrArg (Memory.read · x) (hmemory.kept hst)
    · obtain ⟨u, hu⟩ := runJob_blurred (s := { s with inbox := rest, neu := none })
        (mem := s.mem.blur s.draws j.hit) honNeu hst ht
      have hrace := runRaced_load (s := { s with inbox := rest, neu := none }) hh hst hu
      obtain ⟨v, hv, rfl⟩ := runJob_next hu
      have huq : v.queued = none := (exec_others hv (fun hc => by rw [hc] at honNeu; exact nomatch honNeu)
        fun m hc => by rw [hc] at honNeu; exact nomatch honNeu).queue.trans hq
      refine ⟨_, (step_neuDone hin hj).trans (complete_alone hrace huq), fun x => ?_⟩
      rw [keepPointers_eq]

theorem takeInterrupt_step {s : State} {rest : List Input} (hin : s.inbox = .takeInterrupt :: rest) :
    (s.sw.ir = true → s.cw.iem = false →
      s.interruptRequest = some s.conf.vecExc ∧ step s = .next { s with inbox := rest }) ∧
    (s.sw.ir = false ∨ s.cw.iem = true →
      s.interruptRequest = none ∧ step s = .fault .noInterruptRequest) := by
  have hreq : s.interruptRequest = if s.sw.ir && !s.cw.iem then some s.conf.vecExc else none := rfl
  refine ⟨fun h1 h2 => ?_, fun h => ?_⟩
  · have hr : s.interruptRequest = some s.conf.vecExc := by rw [hreq, h1, h2]; rfl
    refine ⟨hr, ?_⟩
    unfold step
    rw [hin]
    simp only [State.act, hr]
  · have hr : s.interruptRequest = none := by
      rw [hreq]
      rcases h with h | h <;> rw [h]
      · rfl
      · rw [Bool.not_true, Bool.and_false]; rfl
    refine ⟨hr, ?_⟩
    unfold step
    rw [hin]
    simp only [State.act, hr]

/-- Settles O12: by what each input of the CPU does. -/
theorem cpuAccessesAndInterrupt : Obligations.CpuAccessesAndInterrupt :=
  ⟨fun _ _ _ hin => cpuRead_step hin, fun _ _ _ _ hs hin => cpuWrite_step hs hin,
    fun _ _ _ _ hs hin hj hq ht => completion_step hs hin hj hq ht, fun _ _ hin => takeInterrupt_step hin⟩

end Sys2Proof.Machine
end

section
/-! SUPPORT. Loads and the constants (spec/41_data_transfer.md R261, R265, R268, spec/45_constant.md R400 to R407,
spec/60_exceptions.md R487): what a push onto an empty register and onto a full one does. -/

namespace Sys2Proof.Machine

/-! ### Instructions that complete -/

theorem Completes.of_operand {s : State} {m : MemOp} {n : Nat} {f : Nat → State} {P : State → Prop}
    (h : s.Fits m n) (hP : P (f (s.ea m).toNat)) : Completes (s.withOperand m n f) P :=
  ⟨_, s.withOperand_fits m n f h, hP⟩

theorem MemoryKept.of_mem {s t : State} (h : t.mem = s.mem) : MemoryKept s t := fun x => by rw [h]

/-- An instruction whose operands raise nothing unmasked has run, with what was found in them and in the result. -/
theorem Ran.of_attemptCode {s : State} {ea : Option Addr} {before after : ExcSet} {code : BitVec 4}
    {eff : State → State} (he : Effect (s.begin (ea.map BitVec.toNat)) (eff (s.begin (ea.map BitVec.toNat))))
    (hb : before.beforeClass) (hp : Proceeds s before) :
    Ran s ((s.begin (ea.map BitVec.toNat)).attemptCode before after code eff) ea (before.union after) := by
  have h := State.attemptCode_proceeds (s.begin (ea.map BitVec.toNat)) before after code eff hb hp
  rw [h]
  exact Ran.of_conclude he _ _

theorem Proceeds.none (s : State) : Proceeds s .none := ExcSet.unmasked_none _

theorem Proceeds.onlyI {s : State} (h : s.cw.masks.i = true) : Proceeds s .onlyI := by
  rw [Proceeds, ExcSet.unmasked_onlyI, h]; rfl

theorem not_proceeds_onlyI {s : State} (h : s.cw.masks.i = false) : ¬ Proceeds s .onlyI := by
  rw [Proceeds, ExcSet.unmasked_onlyI, h]; simp

/-! ### A push with a given tag -/

/-- `v` was pushed with the tag `tag`; every other register and tag is as before (00_scope.md R9). -/
def PushedTagged (s t : State) (v : TReal) (tag : Tag) : Prop :=
  t.sw.top = s.sw.top - 1 ∧
  (∀ p, t.reg p = if p = s.sw.top - 1 then v else s.reg p) ∧
  ∀ p, t.tag p = if p = s.sw.top - 1 then tag else s.tag p

theorem PushedTagged.of_conclude (s : State) (ea : Option Nat) (v : TReal) (tag : Tag) (ex : ExcSet)
    (code : BitVec 4) : PushedTagged s (((s.begin ea).pushTagged v tag).conclude ex code) v tag :=
  ⟨rfl, fun p => State.reg_pushTagged (s.begin ea) v tag p, fun p => State.tag_pushTagged (s.begin ea) v tag p⟩

/-- The new top has the tag that was pushed. -/
theorem PushedTagged.stTag {s t : State} {v : TReal} {tag : Tag} (h : PushedTagged s t v tag) : t.stTag 0 = tag := by
  obtain ⟨htop, -, htag⟩ := h
  rw [State.stTag_def, htag, htop]
  exact if_pos (BitVec.add_zero _)

/-! ### The exceptions of a load -/

theorem ExcSet.unmasked_d (d : Bool) (m : ExcSet) : { ExcSet.none with d := d }.unmasked m = (d && !m.d) := by
  simp [ExcSet.unmasked, ExcSet.none]

/-- What an unmasked D of a memory operand leaves flagged. -/
theorem ExcSet.upTo_d (m : ExcSet) : { ExcSet.none with d := true }.upTo m = .onlyD := by
  simp [ExcSet.upTo, ExcSet.onlyD, ExcSet.none]

/-- The two exceptions of a load in their order: I of the stack first (R489, D23). -/
theorem ExcSet.upTo_i_d (d : Bool) (m : ExcSet) :
    { ExcSet.onlyI with d := d }.upTo m = { ExcSet.onlyI with d := m.i && d } := by
  simp [ExcSet.upTo, ExcSet.onlyI, ExcSet.none]

theorem ExcSet.unmasked_i_d (d : Bool) (m : ExcSet) :
    { ExcSet.onlyI with d := d }.unmasked m = (!m.i || d && !m.d) := by
  simp [ExcSet.unmasked, ExcSet.onlyI, ExcSet.none]

/-! ### Loads -/

/-- A load onto an empty register pushes the value, D flagged where the operand was a denormal. -/
theorem State.loadTagged_pushes (s : State) (ea : Option Addr) (d : Bool) (v : TReal) (tag : Tag)
    (hf : s.pushFull = false) (hd : (d && !s.cw.masks.d) = false) :
    Ran s ((s.begin (ea.map BitVec.toNat)).loadTagged d v tag) ea { ExcSet.none with d := d } ∧
    PushedTagged s ((s.begin (ea.map BitVec.toNat)).loadTagged d v tag) v tag ∧
    MemoryKept s ((s.begin (ea.map BitVec.toNat)).loadTagged d v tag) := by
  have hp : Proceeds s { ExcSet.invalidIf s.pushFull with d := d } := by
    rw [hf]; exact (ExcSet.unmasked_d d _).trans hd
  have heff : (s.begin (ea.map BitVec.toNat)).pushFull = false := hf
  have heq : (s.begin (ea.map BitVec.toNat)).loadTagged d v tag =
      ((s.begin (ea.map BitVec.toNat)).pushTagged v tag).conclude { ExcSet.none with d := d } s.freeCode := by
    have h := State.attempt_proceeds (s.begin (ea.map BitVec.toNat)) { ExcSet.invalidIf s.pushFull with d := d }
      .none (fun s => if s.pushFull then s.push indefinite else s.pushTagged v tag) ⟨rfl, rfl, rfl⟩ hp
    rw [heff, if_neg (by simp), ExcSet.union_none] at h
    refine h.trans ?_
    rw [hf]
    rfl
  rw [heq]
  exact ⟨Ran.of_conclude (Effect.pushTagged ..) _ _, PushedTagged.of_conclude .., fun _ => rfl⟩

/-- An unmasked D abandons the load. -/
theorem State.loadTagged_denormal (s : State) (ea : Option Addr) (v : TReal) (tag : Tag)
    (hf : s.pushFull = false) (hd : s.cw.masks.d = false) :
    Abandoned s ((s.begin (ea.map BitVec.toNat)).loadTagged true v tag) ea .onlyD := by
  have hset : ({ ExcSet.invalidIf s.pushFull with d := true } : ExcSet) = { ExcSet.none with d := true } := by
    rw [hf]; rfl
  have hn : ¬ Proceeds s { ExcSet.none with d := true } := by
    rw [Proceeds, ExcSet.unmasked_d, hd]; simp
  have h := State.attemptCode_abandoned s ea { ExcSet.none with d := true } .none
    (s.begin (ea.map BitVec.toNat)).freeCode
    (fun s => if s.pushFull then s.push indefinite else s.pushTagged v tag) ⟨rfl, rfl, rfl⟩ hn
  rw [ExcSet.upTo_d, ← hset] at h
  exact h

/-- A load onto a full register with I and D masked where they occur pushes the indefinite. -/
theorem State.loadTagged_overflows (s : State) (ea : Option Addr) (d : Bool) (v : TReal) (tag : Tag)
    (hf : s.pushFull = true) (hi : s.cw.masks.i = true) (hd : (d && !s.cw.masks.d) = false) :
    Ran s ((s.begin (ea.map BitVec.toNat)).loadTagged d v tag) ea { ExcSet.onlyI with d := d } ∧
    Pushed s ((s.begin (ea.map BitVec.toNat)).loadTagged d v tag) indefinite ∧
    MemoryKept s ((s.begin (ea.map BitVec.toNat)).loadTagged d v tag) := by
  have hp : Proceeds s { ExcSet.invalidIf s.pushFull with d := d } := by
    rw [hf]; exact (ExcSet.unmasked_i_d d _).trans (by rw [hi, hd]; rfl)
  have heff : (s.begin (ea.map BitVec.toNat)).pushFull = true := hf
  have heq : (s.begin (ea.map BitVec.toNat)).loadTagged d v tag =
      ((s.begin (ea.map BitVec.toNat)).push indefinite).conclude { ExcSet.onlyI with d := d } s.freeCode := by
    have h := State.attempt_proceeds (s.begin (ea.map BitVec.toNat)) { ExcSet.invalidIf s.pushFull with d := d }
      .none (fun s => if s.pushFull then s.push indefinite else s.pushTagged v tag) ⟨rfl, rfl, rfl⟩ hp
    rw [heff, if_pos rfl, ExcSet.union_none] at h
    refine h.trans ?_
    rw [hf]
    rfl
  rw [heq]
  exact ⟨Ran.of_conclude (Effect.push ..) _ _, PushedTagged.of_conclude .., fun _ => rfl⟩

/-- A load onto a full register with I, or D beside a masked I, unmasked is abandoned. -/
theorem State.loadTagged_refused (s : State) (ea : Option Addr) (d : Bool) (v : TReal) (tag : Tag)
    (hf : s.pushFull = true) (h : (!s.cw.masks.i || d && !s.cw.masks.d) = true) :
    Abandoned s ((s.begin (ea.map BitVec.toNat)).loadTagged d v tag) ea
      { ExcSet.onlyI with d := s.cw.masks.i && d } := by
  have hset : ({ ExcSet.invalidIf s.pushFull with d := d } : ExcSet) = { ExcSet.onlyI with d := d } := by
    rw [hf]; rfl
  have hn : ¬ Proceeds s { ExcSet.onlyI with d := d } := by
    rw [Proceeds, ExcSet.unmasked_i_d, h]; simp
  have ha := State.attemptCode_abandoned s ea { ExcSet.onlyI with d := d } .none
    (s.begin (ea.map BitVec.toNat)).freeCode
    (fun s => if s.pushFull then s.push indefinite else s.pushTagged v tag) ⟨rfl, rfl, rfl⟩ hn
  rw [ExcSet.upTo_i_d, ← hset] at ha
  exact ha

/-! ### The loading instructions -/

/-- The seven constants (45_constant.md R401 to R407). -/
theorem exec_constant {s : State} {i : Instr} {c : TReal}
    (h : (i, c) ∈ [(.fldz, 0x00000000000000000000#80), (.fld1, 0x3FFF8000000000000000#80),
      (.fldpi, s.conf.cPi), (.fldl2t, s.conf.cL2t), (.fldl2e, s.conf.cL2e), (.fldlg2, s.conf.cLg2),
      (.fldln2, s.conf.cLn2)]) :
    exec i s = .next ((s.begin none).loadTagged false c (tagOf c)) := by
  simp only [List.mem_cons, List.not_mem_nil, or_false, Prod.mk.injEq] at h
  rcases h with ⟨rfl, rfl⟩ | ⟨rfl, rfl⟩ | ⟨rfl, rfl⟩ | ⟨rfl, rfl⟩ | ⟨rfl, rfl⟩ | ⟨rfl, rfl⟩ | ⟨rfl, rfl⟩
  case inl => rw [show (0x00000000000000000000#80 : TReal) = zeroOf false by decide]; rfl
  all_goals rfl

/-- The loads of a real or an integer in memory, with their length and the value that is pushed (R261, R265). -/
def State.loads (s : State) (m : MemOp) : List (Instr × Nat × Converted) :=
  let a := (s.ea m).toNat
  [(.fldM32 m, 4, cvtReal .short (s.mem.readLE a 4)), (.fldM64 m, 8, cvtReal .long (s.mem.readLE a 8)),
    (.fldM80 m, 10, ⟨decide (classOf (BitVec.ofNat 80 (s.mem.readLE a 10)) = .denormal),
      BitVec.ofNat 80 (s.mem.readLE a 10)⟩),
    (.fildM16 m, 2, ⟨false, cvtInt (IntFmt.word.toInt (s.mem.readLE a 2))⟩),
    (.fildM32 m, 4, ⟨false, cvtInt (IntFmt.short.toInt (s.mem.readLE a 4))⟩),
    (.fildM64 m, 8, ⟨false, cvtInt (IntFmt.long.toInt (s.mem.readLE a 8))⟩)]

theorem State.loadInt_begin (s : State) (ea : Option Nat) (f : IntFmt) (a n : Nat) (h : f.bytes = n) :
    (s.begin ea).loadInt f a = (s.begin ea).loadTagged false (cvtInt (f.toInt (s.mem.readLE a n)))
      (tagOf (cvtInt (f.toInt (s.mem.readLE a n)))) := by
  subst h; rfl

theorem exec_loads {s : State} {m : MemOp} {i : Instr} {n : Nat} {c : Converted} (h : (i, n, c) ∈ s.loads m)
    (hf : s.Fits m n) :
    exec i s = .next ((s.begin (some (s.ea m).toNat)).loadTagged c.d c.value (tagOf c.value)) := by
  simp only [State.loads, List.mem_cons, List.not_mem_nil, or_false, Prod.mk.injEq] at h
  rcases h with ⟨rfl, rfl, rfl⟩ | ⟨rfl, rfl, rfl⟩ | ⟨rfl, rfl, rfl⟩ | ⟨rfl, rfl, rfl⟩ | ⟨rfl, rfl, rfl⟩ | ⟨rfl, rfl, rfl⟩
  · exact s.withOperand_fits m 4 (fun a => (s.begin (some a)).loadReal .short a) hf
  · exact s.withOperand_fits m 8 (fun a => (s.begin (some a)).loadReal .long a) hf
  · exact s.withOperand_fits m 10 (fun a => (s.begin (some a)).loadTReal a) hf
  · rw [show exec (.fildM16 m) s = s.withOperand m 2 fun a => (s.begin (some a)).loadInt .word a from rfl,
      s.withOperand_fits m 2 _ hf, s.loadInt_begin _ _ _ 2 rfl]
  · rw [show exec (.fildM32 m) s = s.withOperand m 4 fun a => (s.begin (some a)).loadInt .short a from rfl,
      s.withOperand_fits m 4 _ hf, s.loadInt_begin _ _ _ 4 rfl]
  · rw [show exec (.fildM64 m) s = s.withOperand m 8 fun a => (s.begin (some a)).loadInt .long a from rfl,
      s.withOperand_fits m 8 _ hf, s.loadInt_begin _ _ _ 8 rfl]

/-- FBLD: valid digits push their number, others a free value with a free tag that is not empty (R268, U1). -/
theorem exec_fbld {s : State} {m : MemOp} (hf : s.Fits m 10) :
    exec (.fbld m) s = .next (if bcdValid (s.mem.readLE (s.ea m).toNat 10) 18
      then (s.begin (some (s.ea m).toNat)).loadTagged false (cvtBcd (s.mem.readLE (s.ea m).toNat 10))
        (tagOf (cvtBcd (s.mem.readLE (s.ea m).toNat 10)))
      else (s.begin (some (s.ea m).toNat)).loadTagged false (Config.freeReal s.draws)
        (Tag.nonEmpty (Config.freeTag s.draws))) :=
  s.withOperand_fits m 10 (fun a => (s.begin (some a)).loadBcd a) hf

theorem Tag.nonEmpty_ne (b : BitVec 2) : Tag.nonEmpty b ≠ .empty := by
  revert b; decide

/-- FBLD loads some value with some tag that is not empty, whatever the digits. -/
theorem exec_fbld_some {s : State} {m : MemOp} (hf : s.Fits m 10) :
    ∃ v tag, exec (.fbld m) s = .next ((s.begin (some (s.ea m).toNat)).loadTagged false v tag) := by
  by_cases hv : bcdValid (s.mem.readLE (s.ea m).toNat 10) 18 = true
  · exact ⟨_, _, (exec_fbld hf).trans (by rw [if_pos hv])⟩
  · exact ⟨_, _, (exec_fbld hf).trans (by rw [if_neg hv])⟩

/-! ### Tags by content -/

theorem tagOf_zero {v : TReal} (he : expOf v = 0) (hs : sigOf v = 0) : tagOf v = .zero := by
  simp [tagOf, classOf, he, hs]

theorem tagOf_denormal {v : TReal} (he : expOf v = 0) (h0 : 0 < sigOf v) (h1 : sigOf v < 2 ^ 63) :
    tagOf v = .special := by
  unfold tagOf classOf
  dsimp only
  rw [if_pos he, if_neg (by omega), if_pos h1]

theorem tagOf_top {v : TReal} (he : expOf v = 0x7FFF) (h : 2 ^ 63 ≤ sigOf v) : tagOf v = .special := by
  unfold tagOf classOf
  dsimp only
  rw [if_neg (by omega), if_pos he, if_neg (by omega)]
  by_cases h2 : sigOf v = 2 ^ 63
  · rw [if_pos h2]
  · rw [if_neg h2]

theorem tagOf_number {v : TReal} (h0 : 0 < expOf v) (h1 : expOf v < 0x7FFF) : tagOf v = .valid := by
  unfold tagOf classOf
  dsimp only
  rw [if_neg (by omega), if_neg (by omega)]
  by_cases hz : sigOf v = 0
  · rw [if_pos hz]
  · rw [if_neg hz]
    by_cases hl : sigOf v < 2 ^ 63
    · rw [if_pos hl]
    · rw [if_neg hl]

/-- The settings keep the five irrational constants at one of two neighbours (45_constant.md R400, D21; log 21). -/
theorem Settings.constants_of_wf {c : Settings} (h : c.wf = true) :
    (c.cPi = 0x4000C90FDAA22168C234#80 ∨ c.cPi = 0x4000C90FDAA22168C235#80) ∧
    (c.cL2t = 0x4000D49A784BCD1B8AFE#80 ∨ c.cL2t = 0x4000D49A784BCD1B8AFF#80) ∧
    (c.cL2e = 0x3FFFB8AA3B295C17F0BB#80 ∨ c.cL2e = 0x3FFFB8AA3B295C17F0BC#80) ∧
    (c.cLg2 = 0x3FFD9A209A84FBCFF798#80 ∨ c.cLg2 = 0x3FFD9A209A84FBCFF799#80) ∧
    (c.cLn2 = 0x3FFEB17217F7D1CF79AB#80 ∨ c.cLn2 = 0x3FFEB17217F7D1CF79AC#80) := by
  simp only [Settings.wf, Bool.and_eq_true, Bool.or_eq_true, decide_eq_true_iff] at h
  obtain ⟨⟨⟨⟨hpi, ht⟩, he⟩, hg⟩, hn⟩ := h
  exact ⟨hpi, ht, he, hg, hn⟩

/-- Every constant but zero is tagged valid. -/
theorem tagOf_constant {s : State} {i : Instr} {c : TReal}
    (h : (i, c) ∈ [(.fldz, 0x00000000000000000000#80), (.fld1, 0x3FFF8000000000000000#80),
      (.fldpi, s.conf.cPi), (.fldl2t, s.conf.cL2t), (.fldl2e, s.conf.cL2e), (.fldlg2, s.conf.cLg2),
      (.fldln2, s.conf.cLn2)]) (hi : i ≠ .fldz) (hs : s.conf.wf = true) : tagOf c = .valid := by
  obtain ⟨hpi, ht, he, hg, hn⟩ := Settings.constants_of_wf hs
  simp only [List.mem_cons, List.not_mem_nil, or_false, Prod.mk.injEq] at h
  rcases h with ⟨rfl, rfl⟩ | ⟨rfl, rfl⟩ | ⟨rfl, rfl⟩ | ⟨rfl, rfl⟩ | ⟨rfl, rfl⟩ | ⟨rfl, rfl⟩ | ⟨rfl, rfl⟩
  · exact absurd rfl hi
  · decide
  · rcases hpi with h | h <;> rw [h] <;> decide
  · rcases ht with h | h <;> rw [h] <;> decide
  · rcases he with h | h <;> rw [h] <;> decide
  · rcases hg with h | h <;> rw [h] <;> decide
  · rcases hn with h | h <;> rw [h] <;> decide

/-- Settles O24: a constant is a load without D; its tag is read off its content. -/
theorem constantsArePushed : Obligations.ConstantsArePushed := by
  refine ⟨fun s i c h hf => ?_, fun v => ⟨tagOf_zero, tagOf_denormal, tagOf_top, tagOf_number⟩,
    fun s hs => Settings.constants_of_wf hs.settings⟩
  obtain ⟨hran, hpush, hmem⟩ := s.loadTagged_pushes none false c (tagOf c) hf rfl
  refine ⟨_, exec_constant h, hran, hpush, hmem, fun hz => ?_, fun hz hs => ?_⟩
  · subst hz
    have hc : c = 0x00000000000000000000#80 := by simpa using h
    exact hpush.stTag.trans (by rw [hc]; decide)
  · exact hpush.stTag.trans (tagOf_constant h hz hs.settings)

/-- Settles O26. -/
theorem memoryLoadsArePushed : Obligations.MemoryLoadsArePushed := by
  refine ⟨?_, ?_⟩
  · intro s m i n c a h hf hfull
    refine ⟨_, exec_loads h hf, ?_⟩
    split
    · next hd =>
      obtain ⟨hcd, hm⟩ := Bool.and_eq_true_iff.mp hd
      rw [hcd]
      exact s.loadTagged_denormal (some (s.ea m)) _ _ hfull (by simpa using hm)
    · next hd => exact s.loadTagged_pushes (some (s.ea m)) c.d c.value _ hfull (by simpa using hd)
  · intro s m hf hfull w
    refine ⟨_, exec_fbld hf, ?_⟩
    dsimp only
    by_cases hv : bcdValid w 18 = true
    · rw [if_pos hv, if_pos hv]
      obtain ⟨hran, hpush, hmem⟩ := s.loadTagged_pushes (some (s.ea m)) false (cvtBcd w) (tagOf (cvtBcd w)) hfull rfl
      exact ⟨hran, hmem, hpush⟩
    · rw [if_neg hv, if_neg hv]
      obtain ⟨hran, ⟨htop, hreg, htag⟩, hmem⟩ := s.loadTagged_pushes (some (s.ea m)) false (Config.freeReal s.draws)
        (Tag.nonEmpty (Config.freeTag s.draws)) hfull rfl
      refine ⟨hran, hmem, htop, ?_, fun p hp => ⟨?_, ?_⟩⟩
      · exact fun h => Tag.nonEmpty_ne _ (((htag _).trans (if_pos rfl)).symm.trans h)
      · exact (hreg p).trans (if_neg hp)
      · exact (htag p).trans (if_neg hp)

end Sys2Proof.Machine
end

section
/-! SUPPORT. Stack overflow and the transfers between registers (spec/60_exceptions.md R487, spec/41_data_transfer.md
R261 to R264). -/

namespace Sys2Proof.Machine

/-! ### An instruction whose only exception is I -/

theorem Proceeds.invalidIf {s : State} {b : Bool} (h : (b && !s.cw.masks.i) = false) :
    Proceeds s (.invalidIf b) := by
  cases b
  · exact Proceeds.none s
  · exact Proceeds.onlyI (by simpa using h)

/-- Where I is not raised, or masked, the effect happens. -/
theorem State.attempt_invalidIf (s : State) (ea : Option Addr) (b : Bool) (eff : State → State)
    (h : (b && !s.cw.masks.i) = false) :
    (s.begin (ea.map BitVec.toNat)).attempt (.invalidIf b) .none eff =
      (eff (s.begin (ea.map BitVec.toNat))).conclude (.invalidIf b) s.freeCode := by
  have heq := State.attempt_proceeds (s.begin (ea.map BitVec.toNat)) (.invalidIf b) .none eff
    (ExcSet.beforeClass_invalidIf b) (Proceeds.invalidIf (s := s) h)
  rw [ExcSet.union_none] at heq
  exact heq

/-- Raised and unmasked, I abandons the instruction. -/
theorem State.attempt_invalid (s : State) (ea : Option Addr) (after : ExcSet) (eff : State → State)
    (h : s.cw.masks.i = false) :
    Abandoned s ((s.begin (ea.map BitVec.toNat)).attempt .onlyI after eff) ea .onlyI := by
  have ha := State.attemptCode_abandoned s ea .onlyI after (s.begin (ea.map BitVec.toNat)).freeCode eff
    ExcSet.beforeClass_onlyI (not_proceeds_onlyI h)
  rwa [ExcSet.upTo_onlyI] at ha

/-- The same where the condition that raises it is written out. -/
theorem State.attempt_invalidIf_stops (s : State) (ea : Option Addr) (b : Bool) (eff : State → State)
    (h : (b && !s.cw.masks.i) = true) :
    Abandoned s ((s.begin (ea.map BitVec.toNat)).attempt (.invalidIf b) .none eff) ea (.invalidIf b) := by
  obtain ⟨hb, hm⟩ := Bool.and_eq_true_iff.mp h
  subst hb
  exact s.attempt_invalid ea .none eff (by simpa using hm)

/-! ### A new ST and a push -/

/-- `v` with its tag replaced ST, then `w` was pushed with its tag; all else on the stack is as before. -/
def WroteAndPushed (s t : State) (v w : TReal) : Prop :=
  t.sw.top = s.sw.top - 1 ∧
  (∀ p, t.reg p = if p = s.sw.top - 1 then w else if p = s.sw.top then v else s.reg p) ∧
  ∀ p, t.tag p = if p = s.sw.top - 1 then tagOf w else if p = s.sw.top then tagOf v else s.tag p

theorem WroteAndPushed.of_conclude (s : State) (ea : Option Nat) (v w : TReal) (ex : ExcSet) (code : BitVec 4) :
    WroteAndPushed s ((((s.begin ea).writeSt 0 v).push w).conclude ex code) v w := by
  refine ⟨rfl, fun p => ?_, fun p => ?_⟩
  · rw [State.reg_conclude, State.reg_push, State.reg_writeSt, State.phys_def, add_zero]; rfl
  · rw [State.tag_conclude, State.tag_push, State.tag_writeSt, State.phys_def, add_zero]; rfl

/-- One value in both places. -/
theorem WroteAndPushed.same {s t : State} {v : TReal} (h : WroteAndPushed s t v v) :
    t.sw.top = s.sw.top - 1 ∧
    (∀ p, t.reg p = if p = s.sw.top ∨ p = s.sw.top - 1 then v else s.reg p) ∧
    ∀ p, t.tag p = if p = s.sw.top ∨ p = s.sw.top - 1 then tagOf v else s.tag p := by
  obtain ⟨htop, hreg, htag⟩ := h
  have hor : ∀ {α : Type} (p : BitVec 3) (x y : α), (if p = s.sw.top - 1 then x else if p = s.sw.top then x else y) =
      if p = s.sw.top ∨ p = s.sw.top - 1 then x else y := fun p x y => by
    by_cases h1 : p = s.sw.top - 1
    · rw [if_pos h1, if_pos (.inr h1)]
    · rw [if_neg h1]
      exact if_congr (or_iff_left h1).symm rfl rfl
  exact ⟨htop, fun p => (hreg p).trans (hor ..), fun p => (htag p).trans (hor ..)⟩

theorem tagOf_indefinite : tagOf indefinite = .special := by decide

/-- FXTRACT and FPTAN onto a full register (R487; log 41). -/
theorem exec_both_overflow {s : State} {i : Instr} (hi : i ∈ [Instr.fxtract, .fptan]) (he : s.isEmpty 0 = false)
    (hf : s.pushFull = true) :
    exec i s = .next ((s.begin none).attempt .onlyI .none
      fun s => (s.writeSt 0 indefinite).push indefinite) := by
  have he' : (s.begin none).isEmpty 0 = false := he
  have hf' : (s.begin none).pushFull = true := hf
  simp only [List.mem_cons, List.not_mem_nil, or_false] at hi
  rcases hi with rfl | rfl
  · change Host.Outcome.next ((s.begin none).extract) = _
    unfold State.extract
    rw [he', if_neg (by simp), if_pos hf']
  · change Host.Outcome.next ((s.begin none).tangent) = _
    unfold State.tangent
    rw [he', hf', if_pos (by simp)]

/-! ### FLD ST(i) -/

theorem State.loadSt_proceeds (s : State) (k : BitVec 3)
    (h : ((s.isEmpty k || s.pushFull) && !s.cw.masks.i) = false) :
    Ran s ((s.begin none).loadSt k) none (.invalidIf (s.isEmpty k || s.pushFull)) ∧
    Pushed s ((s.begin none).loadSt k) (if s.pushFull || s.isEmpty k then indefinite else s.st k) ∧
    MemoryKept s ((s.begin none).loadSt k) := by
  have heq : (s.begin none).loadSt k =
      ((s.begin none).push (if s.pushFull || s.isEmpty k then indefinite else s.st k)).conclude
        (.invalidIf (s.isEmpty k || s.pushFull)) s.freeCode := by
    refine (s.attempt_invalidIf none _ _ h).trans ?_
    congr 2
    change (if s.pushFull = true then indefinite else if s.isEmpty k = true then indefinite else s.st k) = _
    cases s.pushFull <;> rfl
  rw [heq]
  exact ⟨Ran.of_conclude (ea := none) (Effect.push ..) _ _, PushedTagged.of_conclude .., fun _ => rfl⟩

theorem State.loadSt_stops (s : State) (k : BitVec 3) (h : ((s.isEmpty k || s.pushFull) && !s.cw.masks.i) = true) :
    Abandoned s ((s.begin none).loadSt k) none (.invalidIf (s.isEmpty k || s.pushFull)) :=
  s.attempt_invalidIf_stops none _ _ h

/-! ### Stack overflow -/

/-- Settles O25. -/
theorem pushOntoFullRegister : Obligations.PushOntoFullRegister := by
  refine ⟨fun s i hi hf => ?_, ?_, fun s i hi he hf => ?_⟩
  · rcases hi with hi | ⟨k, rfl⟩
    · have hc : ∃ c, exec i s = .next ((s.begin none).loadTagged false c (tagOf c)) := by
        simp only [List.mem_cons, List.not_mem_nil, or_false] at hi
        rcases hi with rfl | rfl | rfl | rfl | rfl | rfl | rfl <;> exact ⟨_, rfl⟩
      obtain ⟨c, hc⟩ := hc
      refine ⟨_, hc, ?_⟩
      by_cases hm : s.cw.masks.i = true
      · obtain ⟨hran, hpush, hmem⟩ := s.loadTagged_overflows none false c (tagOf c) hf hm rfl
        exact ⟨hran, hmem, (if_pos hm).mpr hpush⟩
      · have ha := s.loadTagged_refused none false c (tagOf c) hf (by simp [hm])
        rw [Bool.and_false] at ha
        exact ⟨ha.ran, ha.memory, (if_neg hm).mpr ha.stack⟩
    · refine ⟨_, rfl, ?_⟩
      have hb : (s.isEmpty k || s.pushFull) = true := by rw [hf, Bool.or_true]
      by_cases hm : s.cw.masks.i = true
      · obtain ⟨hran, hpush, hmem⟩ := s.loadSt_proceeds k (by rw [hm, hb]; rfl)
        rw [hb] at hran
        rw [hf, Bool.true_or] at hpush
        exact ⟨hran, hmem, (if_pos hm).mpr hpush⟩
      · have ha := s.loadSt_stops k (by rw [hb]; simp [hm])
        rw [hb] at ha
        exact ⟨ha.ran, ha.memory, (if_neg hm).mpr ha.stack⟩
  · intro s m i n d a h hf hfull
    obtain ⟨v, tag, hv⟩ : ∃ v tag, exec i s = .next ((s.begin (some (s.ea m).toNat)).loadTagged d v tag) := by
      by_cases hb : i = .fbld m
      · subst hb
        simp only [List.mem_cons, List.not_mem_nil, or_false, Prod.mk.injEq, reduceCtorEq, false_and, false_or,
          true_and] at h
        obtain ⟨rfl, rfl⟩ := h
        exact exec_fbld_some hf
      · obtain ⟨c, hc, hd⟩ : ∃ c, (i, n, c) ∈ s.loads m ∧ c.d = d := by
          simp only [List.mem_cons, List.not_mem_nil, or_false, Prod.mk.injEq] at h
          simp only [State.loads, List.mem_cons, List.not_mem_nil, or_false, Prod.mk.injEq]
          rcases h with ⟨rfl, rfl, rfl⟩ | ⟨rfl, rfl, rfl⟩ | ⟨rfl, rfl, rfl⟩ | ⟨rfl, rfl, rfl⟩ | ⟨rfl, rfl, rfl⟩ |
            ⟨rfl, rfl, rfl⟩ | ⟨rfl, -, -⟩
          · exact ⟨_, .inl ⟨rfl, rfl, rfl⟩, rfl⟩
          · exact ⟨_, .inr (.inl ⟨rfl, rfl, rfl⟩), rfl⟩
          · exact ⟨_, .inr (.inr (.inl ⟨rfl, rfl, rfl⟩)), rfl⟩
          · exact ⟨_, .inr (.inr (.inr (.inl ⟨rfl, rfl, rfl⟩))), rfl⟩
          · exact ⟨_, .inr (.inr (.inr (.inr (.inl ⟨rfl, rfl, rfl⟩)))), rfl⟩
          · exact ⟨_, .inr (.inr (.inr (.inr (.inr ⟨rfl, rfl, rfl⟩)))), rfl⟩
          · exact absurd rfl hb
        subst hd
        exact ⟨_, _, exec_loads hc hf⟩
    refine ⟨_, hv, ?_⟩
    dsimp only
    by_cases hm : s.cw.masks.i = true
    · rw [if_pos hm]
      by_cases hd : (d && !s.cw.masks.d) = true
      · rw [if_pos hd]
        have ha := s.loadTagged_refused (some (s.ea m)) d v tag hfull (by rw [hm, hd]; rfl)
        rw [hm, Bool.true_and] at ha
        exact ⟨ha.memory, ha.ran, ha.stack⟩
      · rw [if_neg hd]
        obtain ⟨hran, hpush, hmem⟩ :=
          s.loadTagged_overflows (some (s.ea m)) d v tag hfull hm (Bool.eq_false_iff.mpr hd)
        exact ⟨hmem, hran, hpush⟩
    · rw [if_neg hm]
      have ha := s.loadTagged_refused (some (s.ea m)) d v tag hfull (by simp [hm])
      rw [Bool.eq_false_iff.mpr hm, Bool.false_and] at ha
      exact ⟨ha.memory, ha.ran, ha.stack⟩
  · refine ⟨_, exec_both_overflow hi he hf, ?_⟩
    dsimp only
    by_cases hm : s.cw.masks.i = true
    · have heq := s.attempt_invalidIf none true (fun s => (s.writeSt 0 indefinite).push indefinite) (by rw [hm]; rfl)
      have hw : WroteAndPushed s ((((s.begin none).writeSt 0 indefinite).push indefinite).conclude .onlyI s.freeCode)
        indefinite indefinite := .of_conclude ..
      have hran : Ran s ((((s.begin none).writeSt 0 indefinite).push indefinite).conclude .onlyI s.freeCode) none
        .onlyI := Ran.of_conclude (ea := none) ((Effect.writeSt ..).trans (Effect.push ..)) _ _
      rw [if_pos hm]
      change (s.begin none).attempt .onlyI .none _ = _ at heq
      rw [heq]
      exact ⟨hran, fun _ => rfl, hw.same⟩
    · have ha := s.attempt_invalid none .none (fun s => (s.writeSt 0 indefinite).push indefinite)
        (Bool.eq_false_iff.mpr hm)
      exact ⟨ha.ran, ha.memory, (if_neg hm).mpr ha.stack⟩

/-! ### Register transfers -/

theorem State.top_popIf (s : State) (b : Bool) : (s.popIf b).sw.top = if b then s.sw.top + 1 else s.sw.top := by
  cases b <;> rfl

theorem State.reg_popIf (s : State) (b : Bool) (p : BitVec 3) : (s.popIf b).reg p = s.reg p := by
  cases b <;> rfl

theorem State.tag_popIf (s : State) (b : Bool) (p : BitVec 3) :
    (s.popIf b).tag p = if b = true ∧ p = s.sw.top then .empty else s.tag p := by
  cases b
  · exact (if_neg (by simp)).symm
  · exact (State.tag_pop s p).trans (if_congr (by simp) rfl rfl)

/-- What an empty register counts as when it is read. -/
def State.bitsOf (s : State) (j : BitVec 3) : TReal := if s.isEmpty j then indefinite else s.reg (s.sw.top + j)
/-- The tag of what is read. -/
def State.tagFor (s : State) (j : BitVec 3) : Tag := if s.isEmpty j then .special else s.tag (s.sw.top + j)

theorem State.reg_filled (s : State) (j p : BitVec 3) :
    (s.filled j).reg p = if p = s.sw.top + j then s.bitsOf j else s.reg p := by
  unfold State.filled State.bitsOf
  split
  · exact State.reg_writeSt ..
  · split
    · next h => rw [h]
    · rfl

theorem State.tag_filled (s : State) (j p : BitVec 3) :
    (s.filled j).tag p = if p = s.sw.top + j then s.tagFor j else s.tag p := by
  unfold State.filled State.tagFor
  split
  · exact State.tag_writeSt ..
  · split
    · next h => rw [h]
    · rfl

theorem State.top_filled (s : State) (j : BitVec 3) : (s.filled j).sw.top = s.sw.top := by
  unfold State.filled; split <;> rfl

theorem State.tagFor_ne (s : State) (j : BitVec 3) : s.tagFor j ≠ .empty := by
  unfold State.tagFor
  by_cases h : s.isEmpty j = true
  · rw [if_pos h]; exact nofun
  · rw [if_neg h]
    exact fun he => h ((s.isEmpty_iff j).mpr he)

/-- Both registers of an exchange, the empty ones filled in. -/
theorem State.reg_filled_both (s : State) (k j : BitVec 3) (hj : j = 0 ∨ j = k) :
    ((s.filled 0).filled k).reg (s.sw.top + j) = s.bitsOf j ∧
    ((s.filled 0).filled k).tag (s.sw.top + j) = s.tagFor j := by
  have hk : (s.filled 0).bitsOf k = s.bitsOf k ∧ (s.filled 0).tagFor k = s.tagFor k := by
    have hreg := s.reg_filled 0 (s.sw.top + k)
    have htag := s.tag_filled 0 (s.sw.top + k)
    by_cases h0 : k = 0
    · subst h0
      rw [if_pos rfl] at hreg htag
      have he : (s.filled 0).isEmpty 0 = false := by
        rw [State.isEmpty, State.stTag_def, State.top_filled, htag]
        exact decide_eq_false (s.tagFor_ne 0)
      constructor
      · rw [State.bitsOf, he, State.top_filled, hreg]; rfl
      · rw [State.tagFor, he, State.top_filled, htag]; rfl
    · have hne : s.sw.top + k ≠ s.sw.top + 0 := fun h => h0 (by simpa using h)
      rw [if_neg hne] at hreg htag
      have he : (s.filled 0).isEmpty k = s.isEmpty k := by
        rw [State.isEmpty, State.stTag_def, State.top_filled, htag]; rfl
      constructor
      · rw [State.bitsOf, he, State.top_filled, hreg]; rfl
      · rw [State.tagFor, he, State.top_filled, htag]; rfl
  rw [State.reg_filled, State.tag_filled, State.top_filled]
  rcases hj with rfl | rfl
  · by_cases h0 : s.sw.top + (0 : BitVec 3) = s.sw.top + k
    · rw [if_pos h0, if_pos h0]
      obtain rfl : k = 0 := by simpa using h0
      exact hk
    · rw [if_neg h0, if_neg h0, State.reg_filled, State.tag_filled, if_pos rfl, if_pos rfl]
      exact ⟨rfl, rfl⟩
  · rw [if_pos rfl, if_pos rfl]
    exact hk

/-- The effect of FXCH, with the empty registers filled in first (R264). -/
def State.exchanged (s : State) (k : BitVec 3) : State :=
  let b := (s.filled 0).filled k
  (b.setReg (b.phys 0) (b.st k) (b.stTag k)).setReg (b.phys k) (b.st 0) (b.stTag 0)

theorem State.exchange_eq (s : State) (k : BitVec 3) :
    s.exchange k = s.attempt (.invalidIf (s.isEmpty 0 || s.isEmpty k)) .none fun s => s.exchanged k := rfl

theorem Effect.exchanged (s : State) (k : BitVec 3) : Effect s (s.exchanged k) :=
  ((Effect.filled s 0).trans (Effect.filled ..)).trans ((Effect.setReg ..).trans (Effect.setReg ..))

theorem State.mem_filled (s : State) (j : BitVec 3) : (s.filled j).mem = s.mem := by
  unfold State.filled; split <;> rfl

theorem State.exchanged_stack (s : State) (k : BitVec 3) :
    (s.exchanged k).sw.top = s.sw.top ∧ (s.exchanged k).mem = s.mem ∧
    (∀ p, (s.exchanged k).reg p = if p = s.sw.top then s.bitsOf k
      else if p = s.sw.top + k then s.bitsOf 0 else s.reg p) ∧
    ∀ p, (s.exchanged k).tag p = if p = s.sw.top then s.tagFor k
      else if p = s.sw.top + k then s.tagFor 0 else s.tag p := by
  have htop : ((s.filled 0).filled k).sw.top = s.sw.top := by rw [State.top_filled, State.top_filled]
  obtain ⟨hreg0, htag0⟩ := s.reg_filled_both k 0 (.inl rfl)
  obtain ⟨hregk, htagk⟩ := s.reg_filled_both k k (.inr rfl)
  refine ⟨htop, ?_, fun p => ?_, fun p => ?_⟩
  · change ((s.filled 0).filled k).mem = _
    rw [State.mem_filled, State.mem_filled]
  · unfold State.exchanged
    dsimp only
    rw [State.reg_setReg, State.reg_setReg, State.phys_def, State.phys_def, State.st_def, State.st_def, htop, hreg0,
      hregk, add_zero]
    by_cases h0 : p = s.sw.top
    · rw [if_pos h0, if_pos h0]
      split
      · next hk =>
        obtain rfl : k = 0 := by simpa using (hk.symm.trans h0)
        rfl
      · rfl
    · rw [if_neg h0, if_neg h0]
      split
      · rfl
      · next hk => rw [State.reg_filled, State.top_filled, if_neg hk, State.reg_filled, add_zero, if_neg h0]
  · unfold State.exchanged
    dsimp only
    rw [State.tag_setReg, State.tag_setReg, State.phys_def, State.phys_def, State.stTag_def, State.stTag_def, htop,
      htag0, htagk, add_zero]
    by_cases h0 : p = s.sw.top
    · rw [if_pos h0, if_pos h0]
      split
      · next hk =>
        obtain rfl : k = 0 := by simpa using (hk.symm.trans h0)
        rfl
      · rfl
    · rw [if_neg h0, if_neg h0]
      split
      · rfl
      · next hk => rw [State.tag_filled, State.top_filled, if_neg hk, State.tag_filled, add_zero, if_neg h0]

/-- FST ST(i) and FSTP ST(i) where I does not abandon them. -/
theorem State.storeSt_proceeds (s : State) (k : BitVec 3) (pop : Bool)
    (h : (s.isEmpty 0 && !s.cw.masks.i) = false) :
    (s.begin none).storeSt k pop =
      (((s.begin none).setReg (s.sw.top + k) (s.bitsOf 0) (s.tagFor 0)).popIf pop).conclude
        (.invalidIf (s.isEmpty 0)) s.freeCode := by
  refine (s.attempt_invalidIf none _ _ h).trans ?_
  congr 2
  change (if s.isEmpty 0 = true then (s.begin none).writeSt k indefinite
    else (s.begin none).setReg (s.sw.top + k) (s.st 0) (s.stTag 0)) = _
  unfold State.bitsOf State.tagFor
  split <;> rfl

/-- Settles O27. -/
theorem registerTransfers : Obligations.RegisterTransfers := by
  intro s k indef bits tag
  refine ⟨fun hf => ⟨_, rfl, ?_⟩, fun i pop hi => ?_, ⟨_, rfl, ?_⟩⟩
  · have hb : (s.isEmpty k || s.pushFull) = s.isEmpty k := by rw [hf, Bool.or_false]
    by_cases h : (s.isEmpty k && !s.cw.masks.i) = true
    · have ha := s.loadSt_stops k (by rw [hb]; exact h)
      rw [hb] at ha
      exact ⟨ha.ran, ha.memory, (if_pos h).mpr ha.stack⟩
    · obtain ⟨hran, hpush, hmem⟩ := s.loadSt_proceeds k (by rw [hb]; exact Bool.eq_false_iff.mpr h)
      rw [hb] at hran
      rw [hf, Bool.false_or] at hpush
      exact ⟨hran, hmem, (if_neg h).mpr hpush⟩
  · have hx : exec i s = .next ((s.begin none).storeSt k pop) := by
      simp only [List.mem_cons, List.not_mem_nil, or_false, Prod.mk.injEq] at hi
      rcases hi with ⟨rfl, rfl⟩ | ⟨rfl, rfl⟩ <;> rfl
    refine ⟨_, hx, ?_⟩
    dsimp only
    by_cases h : (s.isEmpty 0 && !s.cw.masks.i) = true
    · have ha : Abandoned s ((s.begin none).storeSt k pop) none _ := s.attempt_invalidIf_stops none _ _ h
      exact ⟨ha.ran, ha.memory, (if_pos h).mpr ha.stack⟩
    · rw [if_neg h, s.storeSt_proceeds k pop (Bool.eq_false_iff.mpr h)]
      refine ⟨Ran.of_conclude (ea := none) ((Effect.setReg ..).trans (Effect.popIf ..)) _ _,
        .of_mem (State.mem_popIf ..), State.top_popIf .., fun p => ?_, fun p => ?_⟩
      · rw [State.reg_conclude, State.reg_popIf, State.reg_setReg]; rfl
      · rw [State.tag_conclude, State.tag_popIf, State.tag_setReg]; rfl
  · change Ran s ((s.begin none).exchange k) _ _ ∧ _
    rw [State.exchange_eq]
    by_cases h : ((s.isEmpty 0 || s.isEmpty k) && !s.cw.masks.i) = true
    · have ha := s.attempt_invalidIf_stops none _ (fun s => s.exchanged k) h
      exact ⟨ha.ran, ha.memory, (if_pos h).mpr ha.stack⟩
    · have heq := s.attempt_invalidIf none _ (fun s => s.exchanged k) (Bool.eq_false_iff.mpr h)
      obtain ⟨htop, hmem, hreg, htag⟩ := (s.begin none).exchanged_stack k
      rw [if_neg h]
      change (s.begin none).attempt (.invalidIf ((s.begin none).isEmpty 0 || (s.begin none).isEmpty k)) _ _ = _ at heq
      rw [heq]
      exact ⟨Ran.of_conclude (ea := none) (Effect.exchanged ..) _ _, .of_mem hmem, htop, hreg, htag⟩

end Sys2Proof.Machine
end

section
/-! SUPPORT. Stores to memory (spec/41_data_transfer.md R262, R263, R266, R267, R269). -/

namespace Sys2Proof.Machine

/-! ### Pops -/

/-- The registers a pop leaves empty, counted from the old top. -/
theorem popped_next (d : BitVec 3) (n : Nat) :
    (d - 1).toNat < n ∨ d = 0 ↔ d.toNat < n + 1 := by
  by_cases h : d = 0
  · subst h; simp
  · have h1 : (d - 1).toNat = d.toNat - 1 := by
      have hd : d.toNat ≠ 0 := fun e => h (BitVec.eq_of_toNat_eq e)
      bv_omega
    have hd : d.toNat ≠ 0 := fun e => h (BitVec.eq_of_toNat_eq e)
    simp only [h, or_false, h1]
    omega

/-- What `n` pops leave. -/
theorem State.popN_stack (s : State) (n : Nat) :
    (s.popN n).sw.top = s.sw.top + BitVec.ofNat 3 n ∧ (∀ p, (s.popN n).reg p = s.reg p) ∧
    ∀ p, (s.popN n).tag p = if (p - s.sw.top).toNat < n then .empty else s.tag p := by
  induction n generalizing s with
  | zero => exact ⟨(add_zero _).symm, fun _ => rfl, fun _ => rfl⟩
  | succ n ih =>
    obtain ⟨htop, hreg, htag⟩ := ih s.pop
    refine ⟨htop.trans ?_, hreg, fun p => (htag p).trans ?_⟩
    · change s.sw.top + 1 + BitVec.ofNat 3 n = _
      rw [add_assoc, add_comm 1, show BitVec.ofNat 3 (n + 1) = BitVec.ofNat 3 n + 1 from BitVec.ofNat_add ..]
    · change (if (p - (s.sw.top + 1)).toNat < n then Tag.empty else s.pop.tag p) = _
      rw [State.tag_pop, sub_add_eq_sub_sub, ← ite_or]
      exact if_congr ((or_congr_right sub_eq_zero.symm).trans (popped_next _ n)) rfl rfl

theorem Popped.of_popN (s : State) (ea : Option Nat) (n : Nat) (ex : ExcSet) (code : BitVec 4) :
    Popped s (((s.begin ea).popN n).conclude ex code) n :=
  (s.begin ea).popN_stack n

theorem State.popIf_eq_popN (s : State) (b : Bool) : s.popIf b = s.popN (if b then 1 else 0) := by
  cases b <;> rfl

/-! ### A store that happens, and one that is suppressed -/

theorem storeOperand_completes {s : State} {m : MemOp} {n : Nat} {x : Stored} {pop : Bool} (hf : s.Fits m n)
    (hw : x.suppressed s.cw.masks = false → s.Writable m n) :
    s.storeOperand m n x pop =
      .next ((s.begin (some (s.ea m).toNat)).storeBits (s.ea m).toNat n x pop) :=
  s.withDestination_fits m n _ _ hf fun h => hw (by simpa using h)

/-- What a converting store that nothing suppresses leaves. -/
theorem storeBits_stores {s : State} {m : MemOp} {n : Nat} {x : Stored} {pop : Bool} (hi : s.Inv) (hf : s.Fits m n)
    (hc : x.Classed) (hp : Proceeds s x.before)
    (hl : { x.after with p := false }.unmasked s.cw.masks = false) :
    Ran s ((s.begin (some (s.ea m).toNat)).storeBits (s.ea m).toNat n x pop) (some (s.ea m))
      (x.before.union x.after) ∧
    MemoryStored s ((s.begin (some (s.ea m).toNat)).storeBits (s.ea m).toNat n x pop) (s.ea m).toNat n x.bits ∧
    Popped s ((s.begin (some (s.ea m).toNat)).storeBits (s.ea m).toNat n x pop) (if pop then 1 else 0) := by
  have heq := State.attemptStore_proceeds (s.begin (some (s.ea m).toNat)) x.before x.after
    (fun s => (s.store (s.ea m).toNat n x.bits).popIf pop) hc.before hp hl
  have heq' : (s.begin (some (s.ea m).toNat)).storeBits (s.ea m).toNat n x pop =
      (((s.begin (some (s.ea m).toNat)).store (s.ea m).toNat n x.bits).popIf pop).conclude
        (x.before.union x.after) s.freeCode := heq
  rw [heq']
  refine ⟨Ran.of_conclude (ea := some (s.ea m)) ((Effect.store ..).trans (Effect.popIf ..)) _ _,
    .of_writeLE hf.1 hi.memory (State.mem_popIf ..), ?_⟩
  rw [State.popIf_eq_popN]
  exact ((s.begin _).store ..).popN_stack _

theorem suppressed_eq {x : Stored} (hc : x.Classed) (masks : ExcSet) :
    x.suppressed masks = (x.before.unmasked masks || ExcSet.unmasked { x.after with p := false } masks) := by
  rw [Stored.suppressed, ExcSet.screen_snd _ _ hc.before]

/-- The stores of a top that is not empty, with their length, what is stored, and whether they pop. -/
theorem exec_store {s : State} {m : MemOp} {i : Instr} {n : Nat} {x : Stored} {pop : Bool}
    (h : (i, n, x, pop) ∈ [
      (.fstM32 m, 4, toReal s.cw .short (s.num 0), false),
      (.fstM64 m, 8, toReal s.cw .long (s.num 0), false),
      (.fstpM32 m, 4, toReal s.cw .short (s.num 0), true),
      (.fstpM64 m, 8, toReal s.cw .long (s.num 0), true),
      (.fstpM80 m, 10, ⟨.none, .none, (s.st 0).toNat⟩, true),
      (.fistM16 m, 2, toInt s.cw .word (s.num 0), false),
      (.fistM32 m, 4, toInt s.cw .short (s.num 0), false),
      (.fistpM16 m, 2, toInt s.cw .word (s.num 0), true),
      (.fistpM32 m, 4, toInt s.cw .short (s.num 0), true),
      (.fistpM64 m, 8, toInt s.cw .long (s.num 0), true),
      (.fbstp m, 10, toBcd s.cw s.draws (s.num 0), true)]) (he : s.isEmpty 0 = false) :
    exec i s = s.storeOperand m n x pop ∧ x.Classed := by
  have hne : ¬ s.isEmpty 0 = true := by rw [he]; simp
  have hr (f : RealFmt) : s.storedReal f = toReal s.cw f (s.num 0) := if_neg hne
  have hi (f : IntFmt) : s.storedInt f = toInt s.cw f (s.num 0) := if_neg hne
  have ht : s.storedTReal = ⟨.none, .none, (s.st 0).toNat⟩ := if_neg hne
  have hb : s.storedBcd = toBcd s.cw s.draws (s.num 0) := if_neg hne
  simp only [← hr, ← hi, ← ht, ← hb, List.mem_cons, List.not_mem_nil, or_false, Prod.mk.injEq] at h
  rcases h with ⟨rfl, rfl, rfl, rfl⟩ | ⟨rfl, rfl, rfl, rfl⟩ | ⟨rfl, rfl, rfl, rfl⟩ | ⟨rfl, rfl, rfl, rfl⟩ |
    ⟨rfl, rfl, rfl, rfl⟩ | ⟨rfl, rfl, rfl, rfl⟩ | ⟨rfl, rfl, rfl, rfl⟩ | ⟨rfl, rfl, rfl, rfl⟩ |
    ⟨rfl, rfl, rfl, rfl⟩ | ⟨rfl, rfl, rfl, rfl⟩ | ⟨rfl, rfl, rfl, rfl⟩
  · exact ⟨rfl, storedReal_classed ..⟩
  · exact ⟨rfl, storedReal_classed ..⟩
  · exact ⟨rfl, storedReal_classed ..⟩
  · exact ⟨rfl, storedReal_classed ..⟩
  · exact ⟨rfl, storedTReal_classed s⟩
  · exact ⟨rfl, storedInt_classed ..⟩
  · exact ⟨rfl, storedInt_classed ..⟩
  · exact ⟨rfl, storedInt_classed ..⟩
  · exact ⟨rfl, storedInt_classed ..⟩
  · exact ⟨rfl, storedInt_classed ..⟩
  · exact ⟨rfl, storedBcd_classed s⟩

/-- Settles O28. -/
theorem storesWriteConvertedTop : Obligations.StoresWriteConvertedTop := by
  intro s m i n x pop h hi hf he late
  obtain ⟨hx, hc⟩ := exec_store h he
  rw [hx]
  refine ⟨fun hp hl hw => ?_, fun hp hl => ?_, fun hn => ?_⟩
  · exact ⟨_, storeOperand_completes hf fun _ => hw, storeBits_stores hi hf hc hp hl⟩
  · have hsup : x.suppressed s.cw.masks = true := by rw [suppressed_eq hc]; exact Bool.or_eq_true_iff.mpr (.inr hl)
    exact ⟨_, storeOperand_completes hf fun h => absurd (hsup.symm.trans h) (by simp),
      s.attemptStore_suppressed (some (s.ea m)) _ _ _ hc.before hp hl⟩
  · have hsup : x.suppressed s.cw.masks = true := by
      rw [suppressed_eq hc, Bool.eq_true_of_not_eq_false hn, Bool.true_or]
    exact ⟨_, storeOperand_completes hf fun h => absurd (hsup.symm.trans h) (by simp),
      s.attemptStore_abandoned (some (s.ea m)) _ _ _ hc.before hn⟩

/-! ### An empty top -/

/-- What the stores make of an empty top: I, and the indefinite of the format. -/
theorem exec_store_empty {s : State} {m : MemOp} {i : Instr} {n w : Nat} {pop : Bool}
    (h : (i, n, w, pop) ∈ [
        (.fstM32 m, 4, 0xFFC00000, false), (.fstM64 m, 8, 0xFFF8000000000000, false),
        (.fstpM32 m, 4, 0xFFC00000, true), (.fstpM64 m, 8, 0xFFF8000000000000, true),
        (.fstpM80 m, 10, 0xFFFFC000000000000000, true),
        (.fistM16 m, 2, 0x8000, false), (.fistM32 m, 4, 0x80000000, false),
        (.fistpM16 m, 2, 0x8000, true), (.fistpM32 m, 4, 0x80000000, true),
        (.fistpM64 m, 8, 0x8000000000000000, true)]) (he : s.isEmpty 0 = true) :
    exec i s = s.storeOperand m n ⟨.onlyI, .none, w⟩ pop := by
  have hr (f : RealFmt) : s.storedReal f = ⟨.onlyI, .none, f.indefinite⟩ := if_pos he
  have hi (f : IntFmt) : s.storedInt f = ⟨.onlyI, .none, f.indefinite⟩ := if_pos he
  have ht : s.storedTReal = ⟨.onlyI, .none, indefinite.toNat⟩ := if_pos he
  have hshort : s.storedReal .short = ⟨.onlyI, .none, 0xFFC00000⟩ := (hr _).trans (by decide)
  have hlong : s.storedReal .long = ⟨.onlyI, .none, 0xFFF8000000000000⟩ := (hr _).trans (by decide)
  have htreal : s.storedTReal = ⟨.onlyI, .none, 0xFFFFC000000000000000⟩ := ht.trans (by decide)
  have hi16 : s.storedInt .word = ⟨.onlyI, .none, 0x8000⟩ := (hi _).trans (by decide)
  have hi32 : s.storedInt .short = ⟨.onlyI, .none, 0x80000000⟩ := (hi _).trans (by decide)
  have hi64 : s.storedInt .long = ⟨.onlyI, .none, 0x8000000000000000⟩ := (hi _).trans (by decide)
  simp only [List.mem_cons, List.not_mem_nil, or_false, Prod.mk.injEq] at h
  rcases h with ⟨rfl, rfl, rfl, rfl⟩ | ⟨rfl, rfl, rfl, rfl⟩ | ⟨rfl, rfl, rfl, rfl⟩ | ⟨rfl, rfl, rfl, rfl⟩ |
    ⟨rfl, rfl, rfl, rfl⟩ | ⟨rfl, rfl, rfl, rfl⟩ | ⟨rfl, rfl, rfl, rfl⟩ | ⟨rfl, rfl, rfl, rfl⟩ |
    ⟨rfl, rfl, rfl, rfl⟩ | ⟨rfl, rfl, rfl, rfl⟩
  · rw [← hshort]; rfl
  · rw [← hlong]; rfl
  · rw [← hshort]; rfl
  · rw [← hlong]; rfl
  · rw [← htreal]; rfl
  · rw [← hi16]; rfl
  · rw [← hi32]; rfl
  · rw [← hi16]; rfl
  · rw [← hi32]; rfl
  · rw [← hi64]; rfl

/-- The store of an indefinite: I and no more. -/
theorem classed_indefinite (w : Nat) : (⟨.onlyI, .none, w⟩ : Stored).Classed := ⟨⟨rfl, rfl, rfl⟩, ⟨rfl, rfl, rfl⟩⟩

theorem store_indefinite {s : State} {m : MemOp} {n w : Nat} {pop : Bool} (hi : s.Inv) (hf : s.Fits m n)
    (hm : s.cw.masks.i = true) (hw : s.Writable m n) :
    Completes (s.storeOperand m n ⟨.onlyI, .none, w⟩ pop) fun t => Ran s t (some (s.ea m)) .onlyI ∧
      MemoryStored s t (s.ea m).toNat n w ∧ Popped s t (if pop then 1 else 0) :=
  ⟨_, storeOperand_completes hf fun _ => hw,
    storeBits_stores hi hf (classed_indefinite w) (Proceeds.onlyI hm) (ExcSet.unmasked_none _)⟩

theorem store_indefinite_stops {s : State} {m : MemOp} {n w : Nat} {pop : Bool} (hf : s.Fits m n)
    (hm : s.cw.masks.i = false) :
    Completes (s.storeOperand m n ⟨.onlyI, .none, w⟩ pop) fun t => Abandoned s t (some (s.ea m)) .onlyI := by
  have hsup : (⟨.onlyI, .none, w⟩ : Stored).suppressed s.cw.masks = true := by
    rw [suppressed_eq (classed_indefinite w), ExcSet.unmasked_onlyI, hm]; rfl
  have ha := s.attemptStore_abandoned (some (s.ea m)) .onlyI .none
    (fun s => (s.store (s.ea m).toNat n w).popIf pop) ExcSet.beforeClass_onlyI (not_proceeds_onlyI hm)
  rw [ExcSet.upTo_onlyI] at ha
  exact ⟨_, storeOperand_completes hf fun h => absurd (hsup.symm.trans h) (by simp), ha⟩

/-- FBSTP of an empty top. -/
theorem exec_fbstp_empty {s : State} (m : MemOp) (he : s.isEmpty 0 = true) :
    exec (.fbstp m) s = s.storeOperand m 10 ⟨.onlyI, .none, bcdIndefinite s.draws⟩ true := by
  have hb : s.storedBcd = ⟨.onlyI, .none, bcdIndefinite s.draws⟩ := if_pos he
  rw [← hb]; rfl

/-- The two known bytes of the packed decimal indefinite. -/
theorem bcdIndefinite_top (k : Nat) : bcdIndefinite k / 256 ^ 8 = 0xFFFF := by
  have h := (Config.freeBcd k).isLt
  unfold bcdIndefinite
  omega

/-- Settles O29. -/
theorem emptyTopStoresIndefinite : Obligations.EmptyTopStoresIndefinite := by
  intro s m hi he
  refine ⟨fun i n w pop h hf => ?_, fun hf hm => ?_, fun hf hm hw => ?_⟩
  · rw [exec_store_empty h he]
    exact ⟨store_indefinite hi hf, store_indefinite_stops hf⟩
  · rw [exec_fbstp_empty m he]
    exact store_indefinite_stops hf hm
  · rw [exec_fbstp_empty m he]
    obtain ⟨t, ht, hran, ⟨hbytes, hrest⟩, hpop⟩ :=
      store_indefinite (w := bcdIndefinite s.draws) (pop := true) hi hf hm hw
    have htop := bcdIndefinite_top s.draws
    refine ⟨t, ht, hran, ?_, ?_, hrest, hpop⟩
    · rw [hbytes 9 (by omega), show bcdIndefinite s.draws / 256 ^ 9 = 0xFF by omega]; rfl
    · rw [hbytes 8 (by omega), htop]; rfl

end Sys2Proof.Machine
end

section
/-! SUPPORT. The basic operations, and the instructions with a result in ST: what is delivered, what abandons them,
and what an empty operand makes of them (spec/42_arithmetic.md sections 1 and 2, spec/60_exceptions.md R479, R486). -/

namespace Sys2Proof.Machine

/-! ### Writing a result -/

theorem Computed.withD_false (c : Computed) : c.withD false = c := by
  unfold Computed.withD
  rw [Bool.or_false]

/-- A result is delivered with its tag, then the stack is popped where the instruction does. -/
theorem DeliveredTo.of_popIf (s : State) (ea : Option Nat) (d : BitVec 3) (v : TReal) (pop : Bool) (ex : ExcSet)
    (code : BitVec 4) : DeliveredTo s ((((s.begin ea).writeSt d v).popIf pop).conclude ex code) d v pop := by
  refine ⟨State.top_popIf .., fun p => ?_, fun p => ?_⟩
  · rw [State.reg_conclude, State.reg_popIf, State.reg_writeSt]; rfl
  · rw [State.tag_conclude, State.tag_popIf, State.tag_writeSt]; rfl

theorem State.writeResult_delivers {s : State} {c : Computed} (ea : Option Addr) (d : BitVec 3) (pop : Bool)
    (hc : c.Classed) (hp : Proceeds s c.before) :
    Ran s ((s.begin (ea.map BitVec.toNat)).writeResult c d pop) ea (c.before.union c.after) ∧
    DeliveredTo s ((s.begin (ea.map BitVec.toNat)).writeResult c d pop) d c.value pop ∧
    MemoryKept s ((s.begin (ea.map BitVec.toNat)).writeResult c d pop) := by
  have heq : (s.begin (ea.map BitVec.toNat)).writeResult c d pop =
      (((s.begin (ea.map BitVec.toNat)).writeSt d c.value).popIf pop).conclude (c.before.union c.after) s.freeCode :=
    State.attempt_proceeds (s.begin (ea.map BitVec.toNat)) c.before c.after _ hc.before hp
  rw [heq]
  exact ⟨Ran.of_conclude ((Effect.writeSt ..).trans (Effect.popIf ..)) _ _, .of_popIf ..,
    .of_mem (State.mem_popIf ..)⟩

theorem State.writeResult_abandoned {s : State} {c : Computed} (ea : Option Addr) (d : BitVec 3) (pop : Bool)
    (hc : c.Classed) (hp : ¬ Proceeds s c.before) :
    Abandoned s ((s.begin (ea.map BitVec.toNat)).writeResult c d pop) ea (c.before.upTo s.cw.masks) :=
  s.attemptCode_abandoned ea c.before c.after (s.begin (ea.map BitVec.toNat)).freeCode
    (fun s => (s.writeSt d c.value).popIf pop) hc.before hp

/-- The two ways in which a result in a register ends, as the statements about them say. -/
def Delivers (s : State) (o : Host.Outcome State Fault Refusal) (ea : Option Addr) (c : Computed) (d : BitVec 3)
    (pop : Bool) : Prop :=
  (Proceeds s c.before → Completes o fun t =>
    Ran s t ea (c.before.union c.after) ∧ DeliveredTo s t d c.value pop ∧ MemoryKept s t) ∧
  (¬ Proceeds s c.before → Completes o fun t => Abandoned s t ea (c.before.upTo s.cw.masks))

theorem Delivers.of_writeResult {s : State} {c : Computed} {ea : Option Addr} {d : BitVec 3} {pop : Bool}
    {o : Host.Outcome State Fault Refusal} (hc : c.Classed)
    (h : o = .next ((s.begin (ea.map BitVec.toNat)).writeResult c d pop)) : Delivers s o ea c d pop :=
  ⟨fun hp => ⟨_, h, State.writeResult_delivers ea d pop hc hp⟩,
    fun hp => ⟨_, h, State.writeResult_abandoned ea d pop hc hp⟩⟩

/-! ### The basic operations -/

/-- The rows of the register forms: list, operation, operand order, destination, source, pop (42_arithmetic.md
R292 to R308). -/
def registerArith (k : BitVec 3) : List (Instr × ExcSet × BasicOp × Bool × BitVec 3 × BitVec 3 × Bool) :=
  [(.faddSt k, listReal, .add, false, 0, k, false), (.faddSti k, listReal, .add, false, k, 0, false),
    (.faddp k, listReal, .add, false, k, 0, true),
    (.fsubSt k, listReal, .sub, false, 0, k, false), (.fsubSti k, listReal, .sub, false, k, 0, false),
    (.fsubp k, listReal, .sub, false, k, 0, true),
    (.fsubrSt k, listReal, .sub, true, 0, k, false), (.fsubrSti k, listReal, .sub, true, k, 0, false),
    (.fsubrp k, listReal, .sub, true, k, 0, true),
    (.fmulSt k, listReal, .mul, false, 0, k, false), (.fmulSti k, listReal, .mul, false, k, 0, false),
    (.fmulp k, listReal, .mul, false, k, 0, true),
    (.fdivSt k, listDiv, .div, false, 0, k, false), (.fdivSti k, listDiv, .div, false, k, 0, false),
    (.fdivp k, listDiv, .div, false, k, 0, true),
    (.fdivrSt k, listDiv, .div, true, 0, k, false), (.fdivrSti k, listDiv, .div, true, k, 0, false),
    (.fdivrp k, listDiv, .div, true, k, 0, true)]

/-- A register form is a basic operation by its row. -/
theorem exec_registerArith (s : State) (k : BitVec 3) : ∀ r ∈ registerArith k, exec r.1 s =
    .next ((s.begin none).basic r.2.1 r.2.2.1 r.2.2.2.1 r.2.2.2.2.1 (s.sourceSt r.2.2.2.2.2.1) r.2.2.2.2.2.2) := by
  simp only [registerArith, List.forall_mem_cons, List.not_mem_nil, false_implies, implies_true, and_true]
  exact ⟨rfl, rfl, rfl, rfl, rfl, rfl, rfl, rfl, rfl, rfl, rfl, rfl, rfl, rfl, rfl, rfl, rfl, rfl⟩

/-- A memory real as the source of a basic operation. -/
theorem basic_of_real {s : State} {m : MemOp} {list : ExcSet} {op : BasicOp} {rev : Bool} (f : RealFmt) (n : Nat)
    (hn : f.bytes = n) (hf : s.Fits m n) :
    s.withOperand m n (fun a => (s.begin (some a)).basic list op rev 0 (s.sourceReal f a) false) =
      .next ((s.begin (some (s.ea m).toNat)).basic list op rev 0
        ⟨some (cvtReal f (s.mem.readLE (s.ea m).toNat n)).value, (cvtReal f (s.mem.readLE (s.ea m).toNat n)).d⟩
        false) := by
  subst hn
  exact s.withOperand_fits m _ _ hf

/-- A memory integer as the source of a basic operation. -/
theorem basic_of_int {s : State} {m : MemOp} {list : ExcSet} {op : BasicOp} {rev : Bool} (f : IntFmt) (n : Nat)
    (hn : f.bytes = n) (hf : s.Fits m n) :
    s.withOperand m n (fun a => (s.begin (some a)).basic list op rev 0 (s.sourceInt f a) false) =
      .next ((s.begin (some (s.ea m).toNat)).basic list op rev 0
        ⟨some (cvtInt (f.toInt (s.mem.readLE (s.ea m).toNat n))), false⟩ false) := by
  subst hn
  exact s.withOperand_fits m _ _ hf

/-- The rows of the memory forms, with the converted operand (42_arithmetic.md R292 to R308). -/
def State.memoryArith (s : State) (m : MemOp) : List (Instr × Nat × Converted × ExcSet × BasicOp × Bool) :=
  let a := (s.ea m).toNat
  let r4 := cvtReal .short (s.mem.readLE a 4)
  let r8 := cvtReal .long (s.mem.readLE a 8)
  let i2 : Converted := ⟨false, cvtInt (IntFmt.word.toInt (s.mem.readLE a 2))⟩
  let i4 : Converted := ⟨false, cvtInt (IntFmt.short.toInt (s.mem.readLE a 4))⟩
  [(.faddM32 m, 4, r4, listReal, .add, false), (.faddM64 m, 8, r8, listReal, .add, false),
    (.fiaddM16 m, 2, i2, listInt, .add, false), (.fiaddM32 m, 4, i4, listInt, .add, false),
    (.fsubM32 m, 4, r4, listReal, .sub, false), (.fsubM64 m, 8, r8, listReal, .sub, false),
    (.fisubM16 m, 2, i2, listInt, .sub, false), (.fisubM32 m, 4, i4, listInt, .sub, false),
    (.fsubrM32 m, 4, r4, listReal, .sub, true), (.fsubrM64 m, 8, r8, listReal, .sub, true),
    (.fisubrM16 m, 2, i2, listInt, .sub, true), (.fisubrM32 m, 4, i4, listInt, .sub, true),
    (.fmulM32 m, 4, r4, listReal, .mul, false), (.fmulM64 m, 8, r8, listReal, .mul, false),
    (.fimulM16 m, 2, i2, listInt, .mul, false), (.fimulM32 m, 4, i4, listInt, .mul, false),
    (.fdivM32 m, 4, r4, listDiv, .div, false), (.fdivM64 m, 8, r8, listDiv, .div, false),
    (.fidivM16 m, 2, i2, listDiv, .div, false), (.fidivM32 m, 4, i4, listDiv, .div, false),
    (.fdivrM32 m, 4, r4, listDiv, .div, true), (.fdivrM64 m, 8, r8, listDiv, .div, true),
    (.fidivrM16 m, 2, i2, listDiv, .div, true), (.fidivrM32 m, 4, i4, listDiv, .div, true)]

/-- A memory form is a basic operation on its converted operand, by its row. -/
theorem exec_memoryArith (s : State) (m : MemOp) : ∀ r ∈ s.memoryArith m, s.Fits m r.2.1 → exec r.1 s =
    .next ((s.begin (some (s.ea m).toNat)).basic r.2.2.2.1 r.2.2.2.2.1 r.2.2.2.2.2 0
      ⟨some r.2.2.1.value, r.2.2.1.d⟩ false) := by
  simp only [State.memoryArith, List.forall_mem_cons, List.not_mem_nil, false_implies, implies_true, and_true]
  exact ⟨basic_of_real .short 4 rfl, basic_of_real .long 8 rfl, basic_of_int .word 2 rfl, basic_of_int .short 4 rfl,
    basic_of_real .short 4 rfl, basic_of_real .long 8 rfl, basic_of_int .word 2 rfl, basic_of_int .short 4 rfl,
    basic_of_real .short 4 rfl, basic_of_real .long 8 rfl, basic_of_int .word 2 rfl, basic_of_int .short 4 rfl,
    basic_of_real .short 4 rfl, basic_of_real .long 8 rfl, basic_of_int .word 2 rfl, basic_of_int .short 4 rfl,
    basic_of_real .short 4 rfl, basic_of_real .long 8 rfl, basic_of_int .word 2 rfl, basic_of_int .short 4 rfl,
    basic_of_real .short 4 rfl, basic_of_real .long 8 rfl, basic_of_int .word 2 rfl, basic_of_int .short 4 rfl⟩

theorem State.sourceSt_full {s : State} {k : BitVec 3} (h : s.isEmpty k = false) :
    s.sourceSt k = ⟨some (s.num k), false⟩ := by
  unfold State.sourceSt; rw [h]; rfl

theorem State.sourceSt_empty {s : State} {k : BitVec 3} (h : s.isEmpty k = true) : s.sourceSt k = ⟨none, false⟩ := by
  unfold State.sourceSt; rw [h]; rfl

/-- What a basic operation computes where no operand is empty. -/
theorem State.basicResult_full {s : State} {list : ExcSet} {op : BasicOp} {rev : Bool} {d : BitVec 3} {v : TReal}
    {den : Bool} (ea : Option Nat) (h : s.isEmpty d = false) :
    (s.begin ea).basicResult list op rev d ⟨some v, den⟩ =
      (arith list s.cw s.draws op rev (s.num d) v).withD den := by
  have h' : (s.begin ea).isEmpty d = false := h
  unfold State.basicResult
  dsimp only
  rw [h']
  rfl

/-- Where the destination is empty it is the indefinite, with I. -/
theorem State.basicResult_empty {s : State} {list : ExcSet} {op : BasicOp} {rev : Bool} {d : BitVec 3} {src : Source}
    (ea : Option Nat) (h : s.isEmpty d = true ∨ src.value = none) :
    (s.begin ea).basicResult list op rev d src = (Computed.invalid indefinite).withD src.d := by
  unfold State.basicResult
  dsimp only
  cases hv : src.value with
  | none => rfl
  | some v =>
    have h' : (s.begin ea).isEmpty d = true := h.resolve_right (by rw [hv]; simp)
    dsimp only
    rw [h', if_pos rfl]

/-- Settles O30. -/
theorem registerArithmetic : Obligations.RegisterArithmetic := by
  intro s k i list op rev d src pop h hd hsrc c
  refine Delivers.of_writeResult (ea := none) (arith_classed ..) ((exec_registerArith s k _ h).trans ?_)
  rw [State.sourceSt_full hsrc]
  unfold State.basic
  rw [State.basicResult_full _ hd, Computed.withD_false]
  rfl

/-- Settles O31. -/
theorem memoryArithmetic : Obligations.MemoryArithmetic := by
  intro s m i n v list op rev a r4 r8 i2 i4 h hf he c
  refine Delivers.of_writeResult (ea := some (s.ea m)) (Computed.classed_withD _ (arith_classed ..))
    ((exec_memoryArith s m _ h hf).trans ?_)
  unfold State.basic
  rw [State.basicResult_full _ he]
  rfl

end Sys2Proof.Machine
end

section
/-! SUPPORT. Empty operands, FPREM's condition code, the comparisons and FXAM (spec/60_exceptions.md R486,
spec/42_arithmetic.md R315, spec/43_comparison.md). -/

namespace Sys2Proof.Machine

/-! ### The indefinite as a result -/

/-- What an invalid operation leaves where its result is the indefinite. -/
theorem Delivers.indefinite {s : State} {o : Host.Outcome State Fault Refusal} {ea : Option Addr} {d : BitVec 3}
    {pop : Bool} (h : Delivers s o ea (.invalid indefinite) d pop) :
    (s.cw.masks.i = false → Completes o fun t => Abandoned s t ea .onlyI) ∧
    (s.cw.masks.i = true → Completes o fun t =>
      Ran s t ea .onlyI ∧ DeliveredTo s t d 0xFFFFC000000000000000#80 pop ∧
      t.tag (s.sw.top + d) = (if pop = true ∧ d = 0 then .empty else .special) ∧ MemoryKept s t) := by
  refine ⟨fun hm => ?_, fun hm => ?_⟩
  · obtain ⟨t, ht, ha⟩ := h.2 (not_proceeds_onlyI hm)
    exact ⟨t, ht, (ExcSet.upTo_onlyI s.cw.masks) ▸ ha⟩
  · obtain ⟨t, ht, hran, hdel, hmem⟩ := h.1 (Proceeds.onlyI hm)
    refine ⟨t, ht, hran, hdel, (hdel.2.2 _).trans ?_, hmem⟩
    rw [if_pos (rfl : s.sw.top + d = _), show tagOf (Computed.invalid Machine.indefinite).value = .special by decide]
    exact if_congr (and_congr_right fun _ => by simp) rfl rfl

theorem Delivers.of_invalid {s : State} {o : Host.Outcome State Fault Refusal} {d : BitVec 3} {pop : Bool}
    (h : o = .next ((s.begin none).writeResult (.invalid Machine.indefinite) d pop)) :
    Delivers s o none (.invalid Machine.indefinite) d pop :=
  .of_writeResult (ea := none) (Computed.classed_invalid _) h

/-- `d` and `src` are ST and ST(k), in either order. -/
def TopAnd (k d src : BitVec 3) : Prop := d = 0 ∧ src = k ∨ d = k ∧ src = 0

/-- The register forms by their destination: a basic operation of ST and ST(k), either way. -/
theorem exec_registerArith_some (s : State) (k : BitVec 3) : ∀ r ∈ [(Instr.faddSt k, (0 : BitVec 3), false),
      (.fsubSt k, 0, false), (.fsubrSt k, 0, false), (.fmulSt k, 0, false), (.fdivSt k, 0, false),
      (.fdivrSt k, 0, false), (.faddSti k, k, false), (.fsubSti k, k, false), (.fsubrSti k, k, false),
      (.fmulSti k, k, false), (.fdivSti k, k, false), (.fdivrSti k, k, false), (.faddp k, k, true),
      (.fsubp k, k, true), (.fsubrp k, k, true), (.fmulp k, k, true), (.fdivp k, k, true), (.fdivrp k, k, true)],
    ∃ list op rev src, exec r.1 s = .next ((s.begin none).basic list op rev r.2.1 (s.sourceSt src) r.2.2) ∧
      TopAnd k r.2.1 src := by
  simp only [List.forall_mem_cons, List.not_mem_nil, false_implies, implies_true, and_true]
  exact ⟨⟨_, _, _, k, rfl, .inl ⟨rfl, rfl⟩⟩, ⟨_, _, _, k, rfl, .inl ⟨rfl, rfl⟩⟩, ⟨_, _, _, k, rfl, .inl ⟨rfl, rfl⟩⟩,
    ⟨_, _, _, k, rfl, .inl ⟨rfl, rfl⟩⟩, ⟨_, _, _, k, rfl, .inl ⟨rfl, rfl⟩⟩, ⟨_, _, _, k, rfl, .inl ⟨rfl, rfl⟩⟩,
    ⟨_, _, _, 0, rfl, .inr ⟨rfl, rfl⟩⟩, ⟨_, _, _, 0, rfl, .inr ⟨rfl, rfl⟩⟩, ⟨_, _, _, 0, rfl, .inr ⟨rfl, rfl⟩⟩,
    ⟨_, _, _, 0, rfl, .inr ⟨rfl, rfl⟩⟩, ⟨_, _, _, 0, rfl, .inr ⟨rfl, rfl⟩⟩, ⟨_, _, _, 0, rfl, .inr ⟨rfl, rfl⟩⟩,
    ⟨_, _, _, 0, rfl, .inr ⟨rfl, rfl⟩⟩, ⟨_, _, _, 0, rfl, .inr ⟨rfl, rfl⟩⟩, ⟨_, _, _, 0, rfl, .inr ⟨rfl, rfl⟩⟩,
    ⟨_, _, _, 0, rfl, .inr ⟨rfl, rfl⟩⟩, ⟨_, _, _, 0, rfl, .inr ⟨rfl, rfl⟩⟩, ⟨_, _, _, 0, rfl, .inr ⟨rfl, rfl⟩⟩⟩

/-- The memory forms by the D of their operand: a basic operation of ST and some value. -/
theorem exec_memoryArith_some (s : State) (m : MemOp) :
    let a := (s.ea m).toNat
    let d4 := (cvtReal .short (s.mem.readLE a 4)).d
    let d8 := (cvtReal .long (s.mem.readLE a 8)).d
    ∀ r ∈ [(Instr.faddM32 m, 4, d4), (.fsubM32 m, 4, d4), (.fsubrM32 m, 4, d4), (.fmulM32 m, 4, d4),
      (.fdivM32 m, 4, d4), (.fdivrM32 m, 4, d4), (.faddM64 m, 8, d8), (.fsubM64 m, 8, d8), (.fsubrM64 m, 8, d8),
      (.fmulM64 m, 8, d8), (.fdivM64 m, 8, d8), (.fdivrM64 m, 8, d8), (.fiaddM16 m, 2, false),
      (.fisubM16 m, 2, false), (.fisubrM16 m, 2, false), (.fimulM16 m, 2, false), (.fidivM16 m, 2, false),
      (.fidivrM16 m, 2, false), (.fiaddM32 m, 4, false), (.fisubM32 m, 4, false), (.fisubrM32 m, 4, false),
      (.fimulM32 m, 4, false), (.fidivM32 m, 4, false), (.fidivrM32 m, 4, false)], s.Fits m r.2.1 →
    ∃ list op rev v, exec r.1 s =
      .next ((s.begin (some (s.ea m).toNat)).basic list op rev 0 ⟨some v, r.2.2⟩ false) := by
  intro a d4 d8
  simp only [List.forall_mem_cons, List.not_mem_nil, false_implies, implies_true, and_true]
  have real4 (list op rev) (hf : s.Fits m 4) := basic_of_real (list := list) (op := op) (rev := rev) .short 4 rfl hf
  have real8 (list op rev) (hf : s.Fits m 8) := basic_of_real (list := list) (op := op) (rev := rev) .long 8 rfl hf
  have int2 (list op rev) (hf : s.Fits m 2) := basic_of_int (list := list) (op := op) (rev := rev) .word 2 rfl hf
  have int4 (list op rev) (hf : s.Fits m 4) := basic_of_int (list := list) (op := op) (rev := rev) .short 4 rfl hf
  exact ⟨fun hf => ⟨_, _, _, _, real4 _ _ _ hf⟩, fun hf => ⟨_, _, _, _, real4 _ _ _ hf⟩,
    fun hf => ⟨_, _, _, _, real4 _ _ _ hf⟩, fun hf => ⟨_, _, _, _, real4 _ _ _ hf⟩,
    fun hf => ⟨_, _, _, _, real4 _ _ _ hf⟩, fun hf => ⟨_, _, _, _, real4 _ _ _ hf⟩,
    fun hf => ⟨_, _, _, _, real8 _ _ _ hf⟩, fun hf => ⟨_, _, _, _, real8 _ _ _ hf⟩,
    fun hf => ⟨_, _, _, _, real8 _ _ _ hf⟩, fun hf => ⟨_, _, _, _, real8 _ _ _ hf⟩,
    fun hf => ⟨_, _, _, _, real8 _ _ _ hf⟩, fun hf => ⟨_, _, _, _, real8 _ _ _ hf⟩,
    fun hf => ⟨_, _, _, _, int2 _ _ _ hf⟩, fun hf => ⟨_, _, _, _, int2 _ _ _ hf⟩,
    fun hf => ⟨_, _, _, _, int2 _ _ _ hf⟩, fun hf => ⟨_, _, _, _, int2 _ _ _ hf⟩,
    fun hf => ⟨_, _, _, _, int2 _ _ _ hf⟩, fun hf => ⟨_, _, _, _, int2 _ _ _ hf⟩,
    fun hf => ⟨_, _, _, _, int4 _ _ _ hf⟩, fun hf => ⟨_, _, _, _, int4 _ _ _ hf⟩,
    fun hf => ⟨_, _, _, _, int4 _ _ _ hf⟩, fun hf => ⟨_, _, _, _, int4 _ _ _ hf⟩,
    fun hf => ⟨_, _, _, _, int4 _ _ _ hf⟩, fun hf => ⟨_, _, _, _, int4 _ _ _ hf⟩⟩

/-! ### The functions of the stack with an empty operand -/

theorem State.unary_empty (s : State) (c : Computed) : s.unary true c = s.writeResult (.invalid indefinite) 0 false :=
  rfl

theorem State.function2_empty {s : State} (f : Control → TReal → TReal → FunctionResult)
    (h : s.isEmpty 0 = true ∨ s.isEmpty 1 = true) : s.function2 f = s.writeResult (.invalid indefinite) 1 true :=
  if_pos (Bool.or_eq_true_iff.mpr h)

/-- A register form, or an instruction on ST and ST(1), of which an operand is empty. -/
theorem exec_empty_operand {s : State} {k : BitVec 3} {i : Instr} {d : BitVec 3} {pop : Bool}
    (h : (i, d, pop) ∈ [(.faddSt k, 0, false), (.fsubSt k, 0, false), (.fsubrSt k, 0, false), (.fmulSt k, 0, false),
        (.fdivSt k, 0, false), (.fdivrSt k, 0, false), (.faddSti k, k, false), (.fsubSti k, k, false),
        (.fsubrSti k, k, false), (.fmulSti k, k, false), (.fdivSti k, k, false), (.fdivrSti k, k, false),
        (.faddp k, k, true), (.fsubp k, k, true), (.fsubrp k, k, true), (.fmulp k, k, true),
        (.fdivp k, k, true), (.fdivrp k, k, true)] ∧ (s.isEmpty 0 = true ∨ s.isEmpty k = true) ∨
      (i, d, pop) ∈ [(.fsqrt, 0, false), (.frndint, 0, false), (.f2xm1, 0, false)] ∧ s.isEmpty 0 = true ∨
      (i, d, pop) ∈ [(.fscale, 0, false), (.fprem, 0, false), (.fpatan, 1, true), (.fyl2x, 1, true),
        (.fyl2xp1, 1, true)] ∧ (s.isEmpty 0 = true ∨ s.isEmpty 1 = true)) :
    exec i s = .next ((s.begin none).writeResult (.invalid indefinite) d pop) := by
  rcases h with ⟨h, he⟩ | ⟨h, he⟩ | ⟨h, he⟩
  · obtain ⟨list, op, rev, src, hx, hd⟩ := exec_registerArith_some s k _ h
    dsimp only at hx hd
    have hsrc : (s.sourceSt src).d = false := rfl
    have hempty : s.isEmpty d = true ∨ (s.sourceSt src).value = none := by
      have hnone (j : BitVec 3) (hj : s.isEmpty j = true) : (s.sourceSt j).value = none := by
        rw [State.sourceSt_empty hj]
      rcases hd with ⟨rfl, rfl⟩ | ⟨rfl, rfl⟩
      · exact he.imp_right (hnone _)
      · exact he.symm.imp_right (hnone _)
    rw [hx, State.basic, State.basicResult_empty none hempty, hsrc, Computed.withD_false]
  · simp only [List.mem_cons, List.not_mem_nil, or_false, Prod.mk.injEq] at h
    rcases h with ⟨rfl, rfl, rfl⟩ | ⟨rfl, rfl, rfl⟩ | ⟨rfl, rfl, rfl⟩
    · change Host.Outcome.next ((s.begin none).unary (s.isEmpty 0) _) = _
      rw [he]; rfl
    · change Host.Outcome.next ((s.begin none).unary (s.isEmpty 0) _) = _
      rw [he]; rfl
    · exact congrArg Host.Outcome.next (if_pos he)
  · have hor : (s.isEmpty 0 || s.isEmpty 1) = true := Bool.or_eq_true_iff.mpr he
    simp only [List.mem_cons, List.not_mem_nil, or_false, Prod.mk.injEq] at h
    rcases h with ⟨rfl, rfl, rfl⟩ | ⟨rfl, rfl, rfl⟩ | ⟨rfl, rfl, rfl⟩ | ⟨rfl, rfl, rfl⟩ | ⟨rfl, rfl, rfl⟩
    · change Host.Outcome.next ((s.begin none).unary (s.isEmpty 0 || s.isEmpty 1) _) = _
      rw [hor]; rfl
    · exact congrArg Host.Outcome.next (if_pos hor)
    all_goals exact congrArg Host.Outcome.next (State.function2_empty _ he)

/-- Only what the effect makes of this state counts. -/
theorem State.attempt_congr (s : State) (before after : ExcSet) {eff eff' : State → State} (h : eff s = eff' s) :
    s.attempt before after eff = s.attempt before after eff' := by
  unfold State.attempt State.attemptCode
  rw [h]

/-- FXTRACT and FPTAN of an empty ST: an indefinite there, and one pushed (R487; log 41). -/
theorem exec_both_empty {s : State} {i : Instr} {push : Bool}
    (h : (i, push) ∈ [(.fxtract, !s.pushFull), (.fptan, true)]) (he : s.isEmpty 0 = true) :
    exec i s = .next ((s.begin none).attempt .onlyI .none fun u =>
      if push then (u.writeSt 0 indefinite).push indefinite else u.writeSt 0 indefinite) := by
  simp only [List.mem_cons, List.not_mem_nil, or_false, Prod.mk.injEq] at h
  rcases h with ⟨rfl, rfl⟩ | ⟨rfl, rfl⟩
  · refine congrArg Host.Outcome.next ((if_pos he).trans (State.attempt_congr _ _ _ ?_))
    have hf : (s.begin none).pushFull = s.pushFull := rfl
    rw [hf]
    cases s.pushFull <;> rfl
  · refine congrArg Host.Outcome.next (if_pos ?_)
    have he' : (s.begin none).isEmpty 0 = true := he
    rw [he', Bool.true_or]

/-- What an empty ST leaves of FXTRACT and FPTAN, I masked. -/
theorem both_empty_masked {s : State} (push : Bool) (hm : s.cw.masks.i = true) :
    let t := (s.begin none).attempt .onlyI .none fun u =>
      if push then (u.writeSt 0 indefinite).push indefinite else u.writeSt 0 indefinite
    Ran s t none .onlyI ∧ MemoryKept s t ∧ t.sw.top = (if push then s.sw.top - 1 else s.sw.top) ∧
      (∀ p, t.reg p = if p = s.sw.top ∨ (push = true ∧ p = s.sw.top - 1)
        then 0xFFFFC000000000000000#80 else s.reg p) ∧
      ∀ p, t.tag p = if p = s.sw.top ∨ (push = true ∧ p = s.sw.top - 1) then .special else s.tag p := by
  intro t
  have heq : t = _ := s.attempt_invalidIf none true (fun u =>
      if push then (u.writeSt 0 indefinite).push indefinite else u.writeSt 0 indefinite) (by rw [hm]; rfl)
  rw [heq]
  cases push
  · obtain ⟨htop, hreg, htag⟩ := DeliveredTo.of_writeSt s none 0 indefinite (.invalidIf true) s.freeCode
    refine ⟨Ran.of_conclude (ea := none) (Effect.writeSt ..) _ _, fun _ => rfl, htop, fun p => (hreg p).trans ?_,
      fun p => (htag p).trans ?_⟩
    · exact if_congr (by simp) rfl rfl
    · rw [if_neg (by simp)]
      exact if_congr (by simp) rfl rfl
  · have hw : WroteAndPushed s ((((s.begin none).writeSt 0 indefinite).push indefinite).conclude (.invalidIf true)
      s.freeCode) indefinite indefinite := .of_conclude ..
    obtain ⟨htop, hreg, htag⟩ := hw.same
    refine ⟨Ran.of_conclude (ea := none) ((Effect.writeSt ..).trans (Effect.push ..)) _ _, fun _ => rfl, htop,
      fun p => (hreg p).trans ?_, fun p => (htag p).trans ?_⟩
    · exact if_congr (by simp) rfl rfl
    · exact if_congr (by simp) rfl rfl

/-- Settles O33. -/
theorem emptyOperandGivesIndefinite : Obligations.EmptyOperandGivesIndefinite := by
  refine ⟨fun s k i d pop h => (Delivers.of_invalid (exec_empty_operand h)).indefinite, ?_, ?_⟩
  · intro s m i n d a d4 d8 h hf he
    obtain ⟨list, op, rev, v, hx⟩ := exec_memoryArith_some s m _ h hf
    have hc : ((Computed.invalid indefinite).withD d).before = { ExcSet.onlyI with d := d } := by cases d <;> rfl
    have hdel : Delivers s (exec i s) (some (s.ea m)) ((Computed.invalid indefinite).withD d) 0 false := by
      refine .of_writeResult (Computed.classed_withD d (Computed.classed_invalid _)) (hx.trans ?_)
      rw [State.basic, State.basicResult_empty _ (.inl he)]
      rfl
    unfold Delivers at hdel
    rw [hc] at hdel
    obtain ⟨hdone, hstop⟩ := hdel
    rw [Proceeds, ExcSet.unmasked_i_d] at hdone hstop
    rw [ExcSet.upTo_i_d] at hstop
    by_cases hi : s.cw.masks.i = false
    · obtain ⟨t, ht, ha⟩ := hstop (by rw [hi]; simp)
      rw [hi, Bool.false_and] at ha
      exact ⟨t, ht, (if_pos hi).mpr ha⟩
    · have hi' : s.cw.masks.i = true := Bool.eq_true_of_not_eq_false hi
      by_cases hd : d = true ∧ s.cw.masks.d = false
      · obtain ⟨t, ht, ha⟩ := hstop (by rw [hd.1, hd.2]; simp)
        rw [hi', hd.1] at ha
        exact ⟨t, ht, (if_neg hi).mpr ((if_pos hd).mpr ha)⟩
      · obtain ⟨t, ht, hran, hput, hmem⟩ := hdone (by
          rw [hi']
          cases hd0 : d
          · rfl
          · simpa using fun hm => hd ⟨hd0, hm⟩)
        rw [show ((Computed.invalid indefinite).withD d).after = .none from rfl, ExcSet.union_none] at hran
        refine ⟨t, ht, (if_neg hi).mpr ((if_neg hd).mpr ⟨hran, hput, (hput.2.2 _).trans ?_, hmem⟩)⟩
        rw [if_neg (by simp), if_pos (add_zero _).symm]
        exact tagOf_indefinite
  · intro s i push h he
    refine ⟨fun hm => ⟨_, exec_both_empty h he, s.attempt_invalid none _ _ hm⟩,
      fun hm => ⟨_, exec_both_empty h he, both_empty_masked push hm⟩⟩

/-! ### FPREM -/

/-- FPREM's condition code, bit by bit (R315). -/
theorem premCode_bits (q : BitVec 3) (c2 : Bool) :
    let code := q.extractLsb' 1 1 ++ BitVec.ofBool c2 ++ q.extractLsb' 0 1 ++ q.extractLsb' 2 1
    code.getLsbD 2 = c2 ∧ code.getLsbD 0 = q.getLsbD 2 ∧ code.getLsbD 3 = q.getLsbD 1 ∧
      code.getLsbD 1 = q.getLsbD 0 := by
  revert q c2; decide

/-- Settles O35. -/
theorem partialRemainder : Obligations.PartialRemainder := by
  intro s h0 h1 r
  have hx : exec .fprem s = .next ((s.begin none).attemptCode r.result.before r.result.after
      (r.quotient.extractLsb' 1 1 ++ BitVec.ofBool r.partialResult ++ r.quotient.extractLsb' 0 1 ++
        r.quotient.extractLsb' 2 1) fun s => s.writeSt 0 r.result.value) := by
    have hor : ¬ (s.isEmpty 0 || s.isEmpty 1) = true := by rw [h0, h1]; simp
    exact congrArg Host.Outcome.next (if_neg hor)
  have hc : r.result.Classed := premOf_classed ..
  refine ⟨fun hp => ⟨_, hx, ?_⟩, fun hn => ⟨_, hx, s.attemptCode_abandoned none _ _ _ _ hc.before hn⟩⟩
  have heq := State.attemptCode_proceeds (s.begin none) r.result.before r.result.after
    (r.quotient.extractLsb' 1 1 ++ BitVec.ofBool r.partialResult ++ r.quotient.extractLsb' 0 1 ++
      r.quotient.extractLsb' 2 1) (fun s => s.writeSt 0 r.result.value) hc.before hp
  rw [heq]
  exact ⟨Ran.of_conclude (ea := none) (Effect.writeSt ..) _ _, .of_writeSt .., fun _ => rfl, premCode_bits ..⟩

/-! ### Comparison -/

/-- A memory real as the source of a comparison. -/
theorem compare_of_real {s : State} {m : MemOp} {pops : Nat} (f : RealFmt) (n : Nat) (hf : s.Fits m n) :
    s.withOperand m n (fun a => (s.begin (some a)).compare (s.sourceReal f a) pops) =
      .next ((s.begin (some (s.ea m).toNat)).compare (s.sourceReal f (s.ea m).toNat) pops) :=
  s.withOperand_fits m _ _ hf

/-- A memory integer as the source of a comparison. -/
theorem compare_of_int {s : State} {m : MemOp} {pops : Nat} (f : IntFmt) (n : Nat) (hf : s.Fits m n) :
    s.withOperand m n (fun a => (s.begin (some a)).compare (s.sourceInt f a) pops) =
      .next ((s.begin (some (s.ea m).toNat)).compare (s.sourceInt f (s.ea m).toNat) pops) :=
  s.withOperand_fits m _ _ hf

/-- A comparison compares ST with its source and pops (R350 to R357). -/
theorem exec_comparison (s : State) (k : BitVec 3) (m : MemOp) : ∀ r ∈ s.comparisons k m,
    (r.2.1 = some m → s.Fits m r.2.2.1) →
    exec r.1 s = .next ((s.begin ((r.2.1.map s.ea).map BitVec.toNat)).compare r.2.2.2.1 r.2.2.2.2) := by
  simp only [State.comparisons, List.forall_mem_cons, List.not_mem_nil, false_implies, implies_true, and_true]
  exact ⟨fun _ => rfl, fun _ => rfl, fun _ => rfl, fun _ => rfl, fun h => compare_of_real .short 4 (h trivial),
    fun h => compare_of_real .long 8 (h trivial), fun h => compare_of_real .short 4 (h trivial),
    fun h => compare_of_real .long 8 (h trivial), fun h => compare_of_int .word 2 (h trivial),
    fun h => compare_of_int .short 4 (h trivial), fun h => compare_of_int .word 2 (h trivial),
    fun h => compare_of_int .short 4 (h trivial)⟩

/-- `C3` and `C0` of the code of a comparison. -/
theorem compareCode_bits (s : State) (o : Order) :
    (s.compareCode o).getLsbD 3 = o.c3 ∧ (s.compareCode o).getLsbD 0 = o.c0 := by
  unfold State.compareCode
  generalize s.freeCode.extractLsb' 1 2 = b, o.c3 = c, o.c0 = d
  revert b c d
  decide

theorem State.compare_proceeds {s : State} (ea : Option Addr) (src : Source) (pops : Nat)
    (hp : Proceeds s (s.compareOutcome src).2) :
    let t := (s.begin (ea.map BitVec.toNat)).compare src pops
    Ran s t ea (s.compareOutcome src).2 ∧ Popped s t pops ∧ MemoryKept s t ∧
      t.sw.c3 = (s.compareOutcome src).1.c3 ∧ t.sw.c0 = (s.compareOutcome src).1.c0 := by
  intro t
  have heq : t = _ := State.attemptCode_proceeds (s.begin (ea.map BitVec.toNat)) (s.compareOutcome src).2 .none
    (s.compareCode (s.compareOutcome src).1) (fun s => s.popN pops) (compareOutcome_beforeClass s src) hp
  rw [ExcSet.union_none] at heq
  obtain ⟨hc3, hc0⟩ := compareCode_bits s (s.compareOutcome src).1
  rw [heq]
  exact ⟨Ran.of_conclude (Effect.popN ..) _ _, .of_popN .., .of_mem (State.mem_popN ..), hc3, hc0⟩

theorem State.compare_abandoned {s : State} (ea : Option Addr) (src : Source) (pops : Nat)
    (hn : ¬ Proceeds s (s.compareOutcome src).2) :
    Abandoned s ((s.begin (ea.map BitVec.toNat)).compare src pops) ea ((s.compareOutcome src).2.upTo s.cw.masks) :=
  s.attemptCode_abandoned ea (s.compareOutcome src).2 .none (s.compareCode (s.compareOutcome src).1)
    (fun s => s.popN pops) (compareOutcome_beforeClass s src) hn

/-- Settles O38. -/
theorem comparisonsSetTheCode : Obligations.ComparisonsSetTheCode := by
  intro s k m i ea n src pops h hf o
  have hx := exec_comparison s k m _ h hf
  refine ⟨fun hp => ⟨_, hx, ?_⟩, fun hn => ⟨_, hx, State.compare_abandoned _ _ _ hn⟩⟩
  obtain ⟨hran, hpop, hmem, hc3, hc0⟩ := State.compare_proceeds (ea.map s.ea) src pops hp
  refine ⟨hran, hpop, hmem, ?_⟩
  rw [hc3, hc0]
  cases o.1 <;> rfl

/-! ### Examine -/

/-- The code of an empty register, and of one that is not. -/
theorem examCode_empty {s : State} (h : s.isEmpty 0 = true) :
    s.examCode.getLsbD 3 = true ∧ s.examCode.getLsbD 0 = true := by
  unfold State.examCode
  rw [if_pos h]
  generalize s.freeCode.extractLsb' 1 2 = b
  revert b
  decide

theorem examCode_full {s : State} (h : s.isEmpty 0 = false) :
    s.examCode.getLsbD 1 = signOf (s.st 0) ∧ s.examCode.getLsbD 3 = (examClass (s.st 0)).getLsbD 2 ∧
    s.examCode.getLsbD 2 = (examClass (s.st 0)).getLsbD 1 ∧
    s.examCode.getLsbD 0 = (examClass (s.st 0)).getLsbD 0 := by
  unfold State.examCode
  rw [if_neg (by rw [h]; simp)]
  dsimp only
  generalize examClass (s.st 0) = c, signOf (s.st 0) = b
  revert b c
  decide

/-- Settles O40. -/
theorem examineReportsTheClass : Obligations.ExamineReportsTheClass := by
  intro s
  refine ⟨_, rfl, Ran.of_conclude (ea := none) (Effect.refl _) _ _, ⟨rfl, fun _ => rfl, fun _ => rfl⟩,
    fun _ => rfl, ?_⟩
  by_cases h : s.isEmpty 0 = true
  · exact (if_pos h).mpr (examCode_empty h)
  · obtain ⟨h1, h3, h2, h0⟩ := examCode_full (Bool.eq_false_iff.mpr h)
    refine (if_neg h).mpr ⟨h1, fun hc => ?_⟩
    have hcode : (s.examCode.getLsbD 3, s.examCode.getLsbD 2, s.examCode.getLsbD 0) =
      ((examClass (s.st 0)).getLsbD 2, (examClass (s.st 0)).getLsbD 1, (examClass (s.st 0)).getLsbD 0) := by
        rw [h3, h2, h0]
    refine Eq.trans hcode ?_
    unfold examClass
    cases hk : classOf (s.st 0) with
    | pseudoSpecial => exact absurd hk hc
    | _ => dsimp only; decide

end Sys2Proof.Machine
end

section
/-! SUPPORT. Temporary reals and their exact values: the three fields, the classes by the fields, and the values of
packed numbers (spec/40_numerics.md R176 to R179, R200). -/

namespace Sys2Proof.Machine

/-! ### The fields -/

theorem expOf_lt (r : TReal) : expOf r < 2 ^ 15 := (r.extractLsb' 64 15).isLt
theorem sigOf_lt (r : TReal) : sigOf r < 2 ^ 64 := (r.extractLsb' 0 64).isLt

theorem expOf_eq (r : TReal) : expOf r = r.toNat / 2 ^ 64 % 2 ^ 15 := by
  unfold expOf
  rw [BitVec.extractLsb'_toNat, Nat.shiftRight_eq_div_pow]

theorem sigOf_eq (r : TReal) : sigOf r = r.toNat % 2 ^ 64 := by
  unfold sigOf
  rw [BitVec.extractLsb'_toNat, Nat.shiftRight_zero]

theorem signOf_eq (r : TReal) : signOf r = decide (r.toNat / 2 ^ 79 % 2 = 1) := by
  unfold signOf
  rw [BitVec.getLsbD, Nat.testBit_eq_decide_div_mod_eq]

/-- A temporary real is its three fields. -/
theorem toNat_fields (r : TReal) : r.toNat = (if signOf r then 2 ^ 79 else 0) + expOf r * 2 ^ 64 + sigOf r := by
  have h := r.isLt
  rw [expOf_eq, sigOf_eq, signOf_eq]
  by_cases hs : r.toNat / 2 ^ 79 % 2 = 1
  · rw [decide_eq_true hs, if_pos rfl]; omega
  · rw [decide_eq_false hs, if_neg (by simp)]; omega

theorem eq_of_fields {r q : TReal} (hs : signOf r = signOf q) (he : expOf r = expOf q) (hm : sigOf r = sigOf q) :
    r = q := by
  apply BitVec.eq_of_toNat_eq
  rw [toNat_fields r, toNat_fields q, hs, he, hm]

theorem toNat_pack {neg : Bool} {e m : Nat} (he : e < 2 ^ 15) (hm : m < 2 ^ 64) :
    (pack neg e m).toNat = (if neg then 2 ^ 79 else 0) + e * 2 ^ 64 + m := by
  unfold pack
  rw [toNat_append_add, toNat_append_add, BitVec.toNat_ofNat, BitVec.toNat_ofNat, Nat.mod_eq_of_lt he,
    Nat.mod_eq_of_lt hm]
  cases neg
  · simp
  · simp only [BitVec.toNat_ofBool, Bool.toNat_true, if_true]; omega

theorem signOf_pack {neg : Bool} {e m : Nat} (he : e < 2 ^ 15) (hm : m < 2 ^ 64) : signOf (pack neg e m) = neg := by
  rw [signOf_eq, toNat_pack he hm]
  cases neg
  · exact decide_eq_false (by simp only [Bool.false_eq_true, if_false]; omega)
  · exact decide_eq_true (by simp only [if_true]; omega)

theorem expOf_pack {neg : Bool} {e m : Nat} (he : e < 2 ^ 15) (hm : m < 2 ^ 64) : expOf (pack neg e m) = e := by
  rw [expOf_eq, toNat_pack he hm]
  cases neg
  · simp only [Bool.false_eq_true, if_false]; omega
  · simp only [if_true]; omega

theorem sigOf_pack {neg : Bool} {e m : Nat} (he : e < 2 ^ 15) (hm : m < 2 ^ 64) : sigOf (pack neg e m) = m := by
  rw [sigOf_eq, toNat_pack he hm]
  cases neg
  · simp only [Bool.false_eq_true, if_false]; omega
  · simp only [if_true]; omega

/-- Packing the fields of a temporary real gives it back. -/
theorem pack_fields (r : TReal) : pack (signOf r) (expOf r) (sigOf r) = r :=
  eq_of_fields (signOf_pack (expOf_lt r) (sigOf_lt r)) (expOf_pack (expOf_lt r) (sigOf_lt r))
    (sigOf_pack (expOf_lt r) (sigOf_lt r))

@[simp] theorem signOf_zeroOf (neg : Bool) : signOf (zeroOf neg) = neg := signOf_pack (by decide) (by decide)
@[simp] theorem signOf_infOf (neg : Bool) : signOf (infOf neg) = neg := signOf_pack (by decide) (by decide)

@[simp] theorem signOf_withSign (neg : Bool) (r : TReal) : signOf (withSign neg r) = neg := signBit_withSign neg r
@[simp] theorem expOf_withSign (neg : Bool) (r : TReal) : expOf (withSign neg r) = expOf r :=
  congrArg BitVec.toNat (extractLsb'_eq_of_magnitude (magnitude_withSign neg r) (by decide))
@[simp] theorem sigOf_withSign (neg : Bool) (r : TReal) : sigOf (withSign neg r) = sigOf r :=
  congrArg BitVec.toNat (extractLsb'_eq_of_magnitude (magnitude_withSign neg r) (by decide))
@[simp] theorem classOf_withSign (neg : Bool) (r : TReal) : classOf (withSign neg r) = classOf r :=
  classOf_eq_of_magnitude (magnitude_withSign neg r)

@[simp] theorem signOf_negate (r : TReal) : signOf (negate r) = !signOf r := signOf_withSign ..
@[simp] theorem expOf_negate (r : TReal) : expOf (negate r) = expOf r := expOf_withSign ..
@[simp] theorem sigOf_negate (r : TReal) : sigOf (negate r) = sigOf r := sigOf_withSign ..
@[simp] theorem classOf_negate (r : TReal) : classOf (negate r) = classOf r := classOf_withSign ..

/-! ### The classes by the fields (R178) -/

theorem classOf_zero_iff {r : TReal} : classOf r = .zero ↔ expOf r = 0 ∧ sigOf r = 0 := by
  unfold classOf
  dsimp only
  split_ifs <;> simp_all

theorem classOf_normal_iff {r : TReal} : classOf r = .normal ↔ 0 < expOf r ∧ expOf r < 0x7FFF ∧ 2 ^ 63 ≤ sigOf r := by
  have he := expOf_lt r
  unfold classOf
  dsimp only
  split_ifs <;> simp_all
  all_goals omega

theorem classOf_infinity_iff {r : TReal} : classOf r = .infinity ↔ expOf r = 0x7FFF ∧ sigOf r = 2 ^ 63 := by
  unfold classOf
  dsimp only
  split_ifs <;> simp_all
  all_goals omega

theorem classOf_nan_iff {r : TReal} : classOf r = .nan ↔ expOf r = 0x7FFF ∧ 2 ^ 63 < sigOf r := by
  unfold classOf
  dsimp only
  split_ifs <;> simp_all
  all_goals omega

theorem classOf_zeroOf (neg : Bool) : classOf (zeroOf neg) = .zero :=
  classOf_zero_iff.mpr ⟨expOf_pack (by decide) (by decide), sigOf_pack (by decide) (by decide)⟩

/-- A zero is the zero of its sign. -/
theorem eq_zeroOf {r : TReal} (h : classOf r = .zero) : r = zeroOf (signOf r) := by
  obtain ⟨he, hm⟩ := classOf_zero_iff.mp h
  conv_lhs => rw [← pack_fields r, he, hm]
  rfl

/-- An infinity is the infinity of its sign. -/
theorem eq_infOf {r : TReal} (h : classOf r = .infinity) : r = infOf (signOf r) := by
  obtain ⟨he, hm⟩ := classOf_infinity_iff.mp h
  conv_lhs => rw [← pack_fields r, he, hm]
  rfl

/-- A number of the core domain has a normalized significand or none. -/
theorem sigOf_pos_of_normal {r : TReal} (h : classOf r = .normal) : 0 < sigOf r := by
  obtain ⟨-, -, hm⟩ := classOf_normal_iff.mp h
  omega

theorem sigOf_eq_zero_iff {r : TReal} (h : classOf r = .zero ∨ classOf r = .normal) : sigOf r = 0 ↔ classOf r = .zero := by
  rcases h with h | h
  · exact iff_of_true (classOf_zero_iff.mp h).2 h
  · exact iff_of_false (sigOf_pos_of_normal h).ne' (by rw [h]; simp)

/-! ### Exact values -/

/-- The sign of a number as a factor. -/
def signFactor (neg : Bool) : ℚ := if neg then -1 else 1

@[simp] theorem abs_signFactor (neg : Bool) : |signFactor neg| = 1 := by cases neg <;> simp [signFactor]
theorem signFactor_ne_zero (neg : Bool) : signFactor neg ≠ 0 := by cases neg <;> simp [signFactor]
theorem signFactor_not (neg : Bool) : signFactor (!neg) = -signFactor neg := by cases neg <;> simp [signFactor]
theorem signFactor_xor (a b : Bool) : signFactor (a ^^ b) = signFactor a * signFactor b := by
  cases a <;> cases b <;> simp [signFactor]

/-- The unit of the significand of a number (R177). -/
def unitOf (r : TReal) : ℤ := (if expOf r = 0 then 1 else (expOf r : ℤ)) - 16446

theorem valOf_eq (r : TReal) : valOf r = ⟨signOf r, sigOf r, unitOf r⟩ := rfl

theorem two_zpow_pos (e : ℤ) : (0 : ℚ) < 2 ^ e := zpow_pos two_pos e

theorem Val.value_eq (v : Val) : v.value = signFactor v.neg * (v.m * 2 ^ v.e) := mul_assoc _ _ _

theorem Val.abs_value (v : Val) : |v.value| = v.m * 2 ^ v.e := by
  rw [v.value_eq, abs_mul, abs_signFactor, one_mul, abs_of_nonneg (by positivity)]

theorem valueOf_eq (r : TReal) : valueOf r = signFactor (signOf r) * (sigOf r * 2 ^ unitOf r) :=
  (valOf r).value_eq

theorem abs_valueOf (r : TReal) : |valueOf r| = sigOf r * 2 ^ unitOf r := (valOf r).abs_value

theorem valueOf_eq_abs (r : TReal) : valueOf r = signFactor (signOf r) * |valueOf r| := by
  rw [abs_valueOf, ← valueOf_eq]

theorem valueOf_eq_zero {r : TReal} : valueOf r = 0 ↔ sigOf r = 0 := by
  rw [valueOf_eq, mul_eq_zero, mul_eq_zero, Nat.cast_eq_zero]
  simp [signFactor_ne_zero, (two_zpow_pos (unitOf r)).ne']

theorem valueOf_of_zero {r : TReal} (h : classOf r = .zero) : valueOf r = 0 :=
  valueOf_eq_zero.mpr (classOf_zero_iff.mp h).2

theorem valueOf_negate (r : TReal) : valueOf (negate r) = -valueOf r := by
  have hu : unitOf (negate r) = unitOf r := by unfold unitOf; rw [expOf_negate]
  rw [valueOf_eq, valueOf_eq r, signOf_negate, sigOf_negate, hu, signFactor_not, neg_mul]

/-! ### Powers of two and leading bits -/

theorem zpow_mul_pow (e : ℤ) (k : Nat) : (2 : ℚ) ^ e * 2 ^ k = 2 ^ (e + k) := by
  rw [zpow_add₀ two_ne_zero, zpow_natCast]

/-- The leading bit of a number brackets it. -/
theorem log2_bounds {n : Nat} (h : 0 < n) : 2 ^ Nat.log2 n ≤ n ∧ n < 2 ^ (Nat.log2 n + 1) :=
  ⟨Nat.log2_self_le h.ne', Nat.lt_log2_self⟩

theorem log2_eq_of_bounds {n k : Nat} (h1 : 2 ^ k ≤ n) (h2 : n < 2 ^ (k + 1)) : Nat.log2 n = k := by
  have hn : n ≠ 0 := (lt_of_lt_of_le (by positivity) h1).ne'
  exact (Nat.log2_eq_iff hn).mpr ⟨h1, h2⟩

theorem log2_two_pow (k : Nat) : Nat.log2 (2 ^ k) = k :=
  log2_eq_of_bounds le_rfl (Nat.pow_lt_pow_right (by decide) (by omega))

/-! ### Normalized numbers (R200) -/

/-- A positive number has at most 64 significant bits. -/
def Significant (n : Nat) : Prop := 2 ^ (Nat.log2 n - 63) ∣ n

theorem significant_of_lt {n : Nat} (h : n < 2 ^ 64) : Significant n := by
  have hl : Nat.log2 n - 63 = 0 := by
    by_cases hn : n = 0
    · subst hn; decide
    · have := (Nat.log2_lt hn).mpr h
      omega
  unfold Significant
  rw [hl, pow_zero]
  exact one_dvd n

theorem significant_of_le {n : Nat} (h : n ≤ 2 ^ 64) : Significant n := by
  rcases Nat.lt_or_eq_of_le h with h | h
  · exact significant_of_lt h
  · subst h; exact ⟨2 ^ 63, by rw [log2_two_pow]; norm_num⟩

/-- The 64-bit significand of a number. -/
theorem normSig_bounds {n : Nat} (h : 0 < n) : 2 ^ 63 ≤ normSig n ∧ normSig n < 2 ^ 64 := by
  obtain ⟨h1, h2⟩ := log2_bounds h
  unfold normSig
  split
  · next hl =>
    have hp : 2 ^ Nat.log2 n * 2 ^ (63 - Nat.log2 n) = 2 ^ 63 := by rw [← pow_add]; congr 1; omega
    have hq : 2 ^ (Nat.log2 n + 1) * 2 ^ (63 - Nat.log2 n) = 2 ^ 64 := by rw [← pow_add]; congr 1; omega
    rw [Nat.shiftLeft_eq, ← hp, ← hq]
    exact ⟨Nat.mul_le_mul_right _ h1, Nat.mul_lt_mul_of_pos_right h2 (by positivity)⟩
  · next hl =>
    have hp : 2 ^ 63 * 2 ^ (Nat.log2 n - 63) = 2 ^ Nat.log2 n := by rw [← pow_add]; congr 1; omega
    have hq : 2 ^ 64 * 2 ^ (Nat.log2 n - 63) = 2 ^ (Nat.log2 n + 1) := by rw [← pow_add]; congr 1; omega
    rw [Nat.shiftRight_eq_div_pow]
    exact ⟨(Nat.le_div_iff_mul_le (by positivity)).mpr (hp ▸ h1), Nat.div_lt_of_lt_mul (by rw [mul_comm, hq]; exact h2)⟩

/-- With at most 64 significant bits, nothing is lost. -/
theorem normSig_value {n : Nat} (h : Significant n) : (normSig n : ℚ) * 2 ^ ((Nat.log2 n : ℤ) - 63) = n := by
  unfold normSig
  split
  · next hl =>
    rw [Nat.shiftLeft_eq, Nat.cast_mul, Nat.cast_pow, Nat.cast_ofNat, mul_assoc, mul_comm (2 ^ (63 - Nat.log2 n)),
      zpow_mul_pow, show (Nat.log2 n : ℤ) - 63 + (63 - Nat.log2 n : ℕ) = 0 by omega, zpow_zero, mul_one]
  · next hl =>
    rw [Nat.shiftRight_eq_div_pow, show (Nat.log2 n : ℤ) - 63 = ((Nat.log2 n - 63 : ℕ) : ℤ) by omega, zpow_natCast]
    exact_mod_cast Nat.div_mul_cancel h

/-- A normalized number with its exponent in range: its sign, its class, its significand and its value. -/
theorem packNorm_spec {neg : Bool} {n : Nat} {t : ℤ} (hn : 0 < n) (hs : Significant n)
    (h1 : 1 ≤ (Nat.log2 n : ℤ) + t + 16383) (h2 : (Nat.log2 n : ℤ) + t + 16383 ≤ 0x7FFE) :
    classOf (packNorm neg n t) = .normal ∧ signOf (packNorm neg n t) = neg ∧
    |valueOf (packNorm neg n t)| = n * 2 ^ t := by
  obtain ⟨hm1, hm2⟩ := normSig_bounds hn
  obtain ⟨e, he⟩ : ∃ e : ℕ, (Nat.log2 n : ℤ) + t + 16383 = e := ⟨_, (Int.toNat_of_nonneg (by omega)).symm⟩
  have hpk : packNorm neg n t = pack neg e (normSig n) := by
    unfold packNorm; rw [he, Int.toNat_natCast]
  have he15 : e < 2 ^ 15 := by omega
  have hexp := expOf_pack (neg := neg) he15 hm2
  have hsig := sigOf_pack (neg := neg) he15 hm2
  rw [hpk]
  refine ⟨classOf_normal_iff.mpr ⟨by omega, by omega, by rw [hsig]; exact hm1⟩, signOf_pack he15 hm2, ?_⟩
  rw [abs_valueOf, hsig, unitOf, hexp, if_neg (by omega), ← normSig_value hs, mul_assoc, ← zpow_add₀ two_ne_zero,
    show (Nat.log2 n : ℤ) - 63 + t = e - 16446 by omega]

/-- The value of a normal number by its exponent. -/
theorem exponent_valOf {r : TReal} (h : classOf r = .normal) : (valOf r).exponent = (expOf r : ℤ) - 16383 := by
  obtain ⟨h1, -, hm⟩ := classOf_normal_iff.mp h
  have hl : Nat.log2 (sigOf r) = 63 := log2_eq_of_bounds hm (sigOf_lt r)
  unfold Val.exponent
  rw [valOf_eq, hl, unitOf, if_neg (by omega)]
  norm_num
  ring

theorem log2_sigOf {r : TReal} (h : classOf r = .normal) : Nat.log2 (sigOf r) = 63 :=
  log2_eq_of_bounds (classOf_normal_iff.mp h).2.2 (sigOf_lt r)

end Sys2Proof.Machine
end

section
/-! SUPPORT. Rounding (spec/40_numerics.md R195): a quotient split at the integer, the integer that the control picks,
and the rounded significand of an exact or a bracketed number. -/

namespace Sys2Proof.Machine

/-! ### A number split at the integer below it -/

/-- The parts of `x` are those of the number `q`. -/
structure Quot.Splits (x : Quot) (q : ℚ) : Prop where
  lower : (x.floor : ℚ) ≤ q
  upper : q < x.floor + 1
  exact : x.exact = true ↔ q = x.floor
  tie : x.tie = true ↔ q = x.floor + 1 / 2
  above : x.aboveHalf = true ↔ x.floor + 1 / 2 < q

/-- `v` is the number that `x` stands for: exactly, or between two neighbours. -/
def Mag.Brackets (x : Mag) (v : ℚ) : Prop :=
  if x.sticky then (x.n : ℚ) * 2 ^ x.e < v ∧ v < (x.n + 1) * 2 ^ x.e else v = x.n * 2 ^ x.e

/-- In units of `2^e` the number lies at `n`, or strictly between `n` and the next integer. -/
theorem Mag.Brackets.scaled {x : Mag} {v : ℚ} (h : x.Brackets v) :
    if x.sticky then (x.n : ℚ) < v / 2 ^ x.e ∧ v / 2 ^ x.e < x.n + 1 else v / 2 ^ x.e = x.n := by
  have hp := two_zpow_pos x.e
  unfold Mag.Brackets at h
  split
  · next hs =>
    rw [if_pos hs] at h
    rw [lt_div_iff₀ hp, div_lt_iff₀ hp]
    exact h
  · next hs =>
    rw [if_neg hs] at h
    rw [h, mul_div_assoc, div_self hp.ne', mul_one]

/-- A number whose unit is not finer than the position: nothing is cut off. -/
theorem Quot.splits_shift (m : Nat) : (⟨m, true, false, false⟩ : Quot).Splits m where
  lower := le_rfl
  upper := lt_add_one _
  exact := by simp
  tie := by simp
  above := by simp

/-- A number cut `k` places up: `w` lies at `n` or between `n` and the next integer, `n` has the quotient `n / 2^k` and
the rest `n % 2^k`. -/
theorem Quot.splits_cut (n k : Nat) (sticky : Bool) (w : ℚ) (hk : 0 < k)
    (h : if sticky then (n : ℚ) < w ∧ w < n + 1 else w = n) :
    (⟨n >>> k, n % 2 ^ k = 0 && !sticky, n % 2 ^ k = 2 ^ (k - 1) && !sticky,
      2 ^ (k - 1) < n % 2 ^ k || (n % 2 ^ k = 2 ^ (k - 1) && sticky)⟩ : Quot).Splits (w / 2 ^ k) := by
  obtain ⟨j, rfl⟩ : ∃ j, k = j + 1 := ⟨k - 1, by omega⟩
  rw [Nat.add_sub_cancel, Nat.shiftRight_eq_div_pow]
  have hpos : (0 : ℚ) < 2 ^ (j + 1) := by positivity
  have hdiv : n = 2 ^ (j + 1) * (n / 2 ^ (j + 1)) + n % 2 ^ (j + 1) := (Nat.div_add_mod n _).symm
  have hlt : n % 2 ^ (j + 1) < 2 ^ (j + 1) := Nat.mod_lt _ (by positivity)
  generalize n / 2 ^ (j + 1) = a at *
  generalize n % 2 ^ (j + 1) = r at *
  have hP : (2 : ℚ) ^ (j + 1) = 2 * 2 ^ j := by rw [pow_succ]; ring
  have hlt' : (r : ℚ) + 1 ≤ 2 * 2 ^ j := by rw [← hP]; exact_mod_cast hlt
  have hhalf : ((2 ^ j : ℕ) : ℚ) = 2 ^ j := by norm_cast
  have hdivq : (n : ℚ) = 2 * 2 ^ j * a + r := by rw [← hP]; exact_mod_cast hdiv
  -- the rest of `w` above the multiple of the position
  obtain ⟨y, rfl⟩ : ∃ y, w = 2 * 2 ^ j * a + y := ⟨w - 2 * 2 ^ j * a, by ring⟩
  have hq : (2 * 2 ^ j * a + y) / 2 ^ (j + 1) = a + y / 2 ^ (j + 1) := by rw [hP]; field_simp
  have hy : if sticky then (r : ℚ) < y ∧ y < r + 1 else y = r := by
    cases sticky
    · simp only [Bool.false_eq_true, if_false] at h ⊢; linarith
    · simp only [if_true] at h ⊢; exact ⟨by linarith, by linarith⟩
  rw [hq]
  have hr0 : (0 : ℚ) ≤ r := Nat.cast_nonneg r
  have hcmp : ((r : ℚ) = 2 ^ j ↔ r = 2 ^ j) ∧ ((2 ^ j : ℚ) < r ↔ 2 ^ j < r) := by
    constructor
    · rw [← hhalf]; exact Nat.cast_inj
    · rw [← hhalf]; exact Nat.cast_lt
  constructor
  · exact le_add_of_nonneg_right (div_nonneg (by cases sticky <;> simp at hy <;> linarith) hpos.le)
  · refine (add_lt_add_iff_left (a : ℚ)).mpr ?_
    rw [div_lt_one hpos, hP]
    cases sticky <;> simp at hy <;> linarith
  · dsimp only
    rw [add_eq_left, div_eq_zero_iff, or_iff_left hpos.ne']
    cases sticky
    · simp only [Bool.false_eq_true, if_false] at hy
      rw [hy, Nat.cast_eq_zero]; simp
    · simp only [if_true] at hy
      simp only [Bool.not_true, Bool.and_false, Bool.false_eq_true, false_iff]
      intro h0; linarith
  · dsimp only
    rw [add_right_inj, div_eq_iff hpos.ne', hP, show (1 / 2 : ℚ) * (2 * 2 ^ j) = 2 ^ j by ring]
    cases sticky
    · simp only [Bool.false_eq_true, if_false] at hy
      rw [hy, hcmp.1]; simp
    · simp only [if_true] at hy
      simp only [Bool.not_true, Bool.and_false, Bool.false_eq_true, false_iff]
      intro h0
      rw [h0, ← hhalf] at hy
      have h1 : r < 2 ^ j := by exact_mod_cast hy.1
      have h2 : 2 ^ j < r + 1 := by exact_mod_cast hy.2
      omega
  · dsimp only
    rw [add_lt_add_iff_left, lt_div_iff₀ hpos, hP, show (1 / 2 : ℚ) * (2 * 2 ^ j) = 2 ^ j by ring]
    cases sticky
    · simp only [Bool.false_eq_true, if_false] at hy
      rw [hy, hcmp.2]; simp
    · simp only [if_true] at hy
      simp only [Bool.and_true, Bool.or_eq_true, decide_eq_true_eq]
      constructor
      · intro h1
        have h2 : 2 ^ j ≤ r := by omega
        have h3 : (2 ^ j : ℚ) ≤ r := by rw [← hhalf]; exact_mod_cast h2
        linarith
      · intro h1
        have h2 : ((2 ^ j : ℕ) : ℚ) < r + 1 := by rw [hhalf]; linarith
        have h3 : 2 ^ j < r + 1 := by exact_mod_cast h2
        omega

/-- The quotient of a number by a power of two, split at the integer; a bracketed number must be cut. -/
theorem Mag.quot_splits {x : Mag} {v : ℚ} {t : ℤ} (h : x.Brackets v) (ht : x.sticky = true → x.e < t) :
    (x.quot t).Splits (v / 2 ^ t) := by
  have hsc := h.scaled
  unfold Mag.quot
  split
  · next hle =>
    have hs : x.sticky = false := Bool.eq_false_iff.mpr fun hs => absurd (ht hs) (by omega)
    rw [hs, if_neg (by simp)] at hsc
    have hv : v / 2 ^ t = ((x.n <<< (x.e - t).toNat : ℕ) : ℚ) := by
      rw [Nat.shiftLeft_eq, Nat.cast_mul, Nat.cast_pow, Nat.cast_ofNat, ← hsc, div_mul_eq_mul_div,
        div_eq_div_iff (two_zpow_pos t).ne' (two_zpow_pos x.e).ne', mul_assoc, ← zpow_natCast, ← zpow_add₀ two_ne_zero,
        Int.toNat_of_nonneg (by omega), sub_add_cancel]
    rw [hv, hs]
    exact Quot.splits_shift _
  · next hle =>
    have hk : v / 2 ^ t = v / 2 ^ x.e / 2 ^ (t - x.e).toNat := by
      rw [div_div, zpow_mul_pow, Int.toNat_of_nonneg (by omega), add_sub_cancel]
    rw [hk]
    exact Quot.splits_cut _ _ _ _ (by omega) hsc

/-! ### The integer that the control picks -/

theorem Quot.Splits.floor_eq {x : Quot} {q : ℚ} (h : x.Splits q) : ⌊q⌋ = (x.floor : ℤ) :=
  Int.floor_eq_iff.mpr ⟨by exact_mod_cast h.lower, by exact_mod_cast h.upper⟩

theorem Quot.Splits.ceil_eq {x : Quot} {q : ℚ} (h : x.Splits q) :
    ⌈q⌉ = if x.exact then (x.floor : ℤ) else x.floor + 1 := by
  by_cases hx : x.exact = true
  · rw [if_pos hx, h.exact.mp hx]
    exact Int.ceil_natCast _
  · rw [if_neg hx, Int.ceil_eq_iff]
    have hne : q ≠ x.floor := fun e => hx (h.exact.mpr e)
    have hl := lt_of_le_of_ne h.lower hne.symm
    have hu := h.upper
    push_cast
    exact ⟨by linarith, hu.le⟩

/-- Rounding gives the integer below or the next one. -/
theorem Quot.round_or (x : Quot) (rc : BitVec 2) (neg : Bool) :
    x.round rc neg = x.floor ∨ x.round rc neg = x.floor + 1 := (ite_eq_or_eq _ _ _).symm

/-- The four controls by what they pick. -/
theorem Quot.round_nearest (x : Quot) (neg : Bool) :
    x.round 0 neg = if x.aboveHalf || (x.tie && x.floor % 2 = 1) then x.floor + 1 else x.floor := rfl
theorem Quot.round_down (x : Quot) (neg : Bool) :
    x.round 1 neg = if neg && !x.exact then x.floor + 1 else x.floor := rfl
theorem Quot.round_up (x : Quot) (neg : Bool) :
    x.round 2 neg = if !neg && !x.exact then x.floor + 1 else x.floor := rfl
theorem Quot.round_chop (x : Quot) (neg : Bool) : x.round 3 neg = x.floor := rfl

theorem rc_cases (rc : BitVec 2) : rc = 0 ∨ rc = 1 ∨ rc = 2 ∨ rc = 3 := by revert rc; decide

/-- Nothing is rounded where nothing is left. -/
theorem Quot.Splits.round_exact {x : Quot} {q : ℚ} (h : x.Splits q) (rc : BitVec 2) (neg : Bool)
    (hx : x.exact = true) : x.round rc neg = x.floor := by
  have hq := h.exact.mp hx
  have ha : x.aboveHalf = false := Bool.eq_false_iff.mpr fun e => absurd (h.above.mp e) (by rw [hq]; linarith)
  have ht : x.tie = false := Bool.eq_false_iff.mpr fun e => absurd (h.tie.mp e) (by rw [hq]; linarith)
  rcases rc_cases rc with rfl | rfl | rfl | rfl
  · rw [Quot.round_nearest, ha, ht]; rfl
  · rw [Quot.round_down, hx]; simp
  · rw [Quot.round_up, hx]; simp
  · rfl

/-- The integer is the number itself exactly where nothing is left. -/
theorem Quot.Splits.exact_iff {x : Quot} {q : ℚ} (h : x.Splits q) (rc : BitVec 2) (neg : Bool) :
    x.exact = true ↔ (x.round rc neg : ℚ) = q := by
  constructor
  · intro hx
    rw [h.round_exact rc neg hx, h.exact.mp hx]
  · intro hr
    rw [h.exact]
    have hu := h.upper
    rcases x.round_or rc neg with h0 | h0
    · rw [← hr, h0]
    · rw [h0] at hr
      push_cast at hr
      linarith

/-- What each control picks, on the magnitude (R195). -/
theorem Quot.Splits.round_spec {x : Quot} {q : ℚ} (h : x.Splits q) (rc : BitVec 2) (neg : Bool) :
    (rc = 0 → |(x.round rc neg : ℚ) - q| ≤ 1 / 2 ∧ (|(x.round rc neg : ℚ) - q| = 1 / 2 → x.round rc neg % 2 = 0)) ∧
    (rc = 1 → (x.round rc neg : ℤ) = if neg then ⌈q⌉ else ⌊q⌋) ∧
    (rc = 2 → (x.round rc neg : ℤ) = if neg then ⌊q⌋ else ⌈q⌉) ∧
    (rc = 3 → (x.round rc neg : ℤ) = ⌊q⌋) := by
  rw [h.ceil_eq, h.floor_eq]
  refine ⟨?_, ?_, ?_, ?_⟩
  · rintro rfl
    rw [Quot.round_nearest]
    have hl := h.lower
    have hu := h.upper
    by_cases ha : x.aboveHalf = true
    · have hgt := h.above.mp ha
      rw [ha, Bool.true_or, if_pos rfl, Nat.cast_succ, abs_of_pos (by linarith)]
      exact ⟨by linarith, fun e => by linarith⟩
    · have hle : q ≤ x.floor + 1 / 2 := not_lt.mp fun hlt => ha (h.above.mpr hlt)
      rw [Bool.eq_false_iff.mpr ha, Bool.false_or]
      by_cases ht : x.tie = true
      · have hq := h.tie.mp ht
        rw [ht, Bool.true_and]
        by_cases hodd : x.floor % 2 = 1
        · rw [if_pos (decide_eq_true hodd), Nat.cast_succ, hq, show (x.floor : ℚ) + 1 - (x.floor + 1 / 2) = 1 / 2 by ring,
            abs_of_pos (by norm_num)]
          exact ⟨le_rfl, fun _ => by omega⟩
        · rw [if_neg (by simpa using hodd), hq, show (x.floor : ℚ) - (x.floor + 1 / 2) = -(1 / 2) by ring, abs_neg,
            abs_of_pos (by norm_num)]
          exact ⟨le_rfl, fun _ => by omega⟩
      · rw [Bool.eq_false_iff.mpr ht, Bool.false_and, if_neg (by simp), abs_sub_comm, abs_of_nonneg (by linarith)]
        exact ⟨by linarith, fun e => absurd (h.tie.mpr (by linarith)) ht⟩
  · rintro rfl
    rw [Quot.round_down]
    cases neg <;> cases x.exact <;> simp
  · rintro rfl
    rw [Quot.round_up]
    cases neg <;> cases x.exact <;> simp
  · rintro rfl
    rfl

/-- The signed integer that the control picks (R195, R196). -/
theorem Quot.Splits.roundsTo {x : Quot} {q : ℚ} (h : x.Splits q) (rc : BitVec 2) (neg : Bool) (hq : 0 ≤ q) :
    RoundsTo rc (signFactor neg * q) (if neg then -(x.round rc neg : ℤ) else x.round rc neg) := by
  obtain ⟨h0, h1, h2, h3⟩ := h.round_spec rc neg
  unfold RoundsTo
  cases neg
  · simp only [signFactor, Bool.false_eq_true, if_false, one_mul, Int.cast_natCast] at *
    refine ⟨fun hr => ?_, h1, h2, fun hr => ?_⟩
    · obtain ⟨ha, hb⟩ := h0 hr
      exact ⟨ha, fun e => by have := hb e; omega⟩
    · rw [if_neg (not_lt.mpr hq)]; exact h3 hr
  · simp only [signFactor, if_true, neg_mul, one_mul, Int.cast_neg, Int.cast_natCast] at *
    have habs (r : ℚ) : |-r - -q| = |r - q| := by rw [← neg_sub', abs_neg]
    rw [habs]
    refine ⟨fun hr => ?_, fun hr => ?_, fun hr => ?_, fun hr => ?_⟩
    · obtain ⟨ha, hb⟩ := h0 hr
      exact ⟨ha, fun e => by have := hb e; omega⟩
    · rw [h1 hr, Int.floor_neg]
    · rw [h2 hr, Int.ceil_neg]
    · rw [h3 hr]
      split
      · rw [Int.ceil_neg]
      · next hn =>
        obtain rfl : q = 0 := le_antisymm (by linarith) hq
        simp

/-! ### The rounded significand -/

/-- The number lies within the binade of its leading bit. -/
theorem Mag.Brackets.binade {x : Mag} {v : ℚ} (h : x.Brackets v) (hn : 0 < x.n) :
    2 ^ x.exponent ≤ v ∧ v < 2 ^ (x.exponent + 1) := by
  have hp := two_zpow_pos x.e
  obtain ⟨h1, h2⟩ := log2_bounds hn
  have h1' : (2 : ℚ) ^ Nat.log2 x.n ≤ x.n := by exact_mod_cast h1
  have h2' : (x.n : ℚ) + 1 ≤ 2 ^ (Nat.log2 x.n + 1) := by exact_mod_cast h2
  have hlow : (x.n : ℚ) * 2 ^ x.e ≤ v ∧ v < (x.n + 1) * 2 ^ x.e := by
    unfold Mag.Brackets at h
    split at h
    · exact ⟨h.1.le, h.2⟩
    · rw [h]; exact ⟨le_rfl, mul_lt_mul_of_pos_right (lt_add_one _) hp⟩
  unfold Mag.exponent
  constructor
  · rw [add_comm, ← zpow_mul_pow, mul_comm]
    exact (mul_le_mul_of_nonneg_right h1' hp.le).trans hlow.1
  · rw [show (Nat.log2 x.n : ℤ) + x.e + 1 = x.e + ((Nat.log2 x.n + 1 : ℕ) : ℤ) by push_cast; ring, ← zpow_mul_pow,
      mul_comm]
    exact hlow.2.trans_le (mul_le_mul_of_nonneg_right h2' hp.le)

/-- A rounding to `p` bits is a quotient at the position of the last of them. -/
theorem Mag.round_eq (x : Mag) (p : Nat) (rc : BitVec 2) (neg : Bool) :
    x.round p rc neg =
      ((x.quot (x.exponent - p + 1)).round rc neg, x.exponent - p + 1, !(x.quot (x.exponent - p + 1)).exact) := rfl

/-- `v` is the number that `x` stands for, known well enough to be rounded to `p` bits. -/
def Mag.Known (x : Mag) (p : Nat) (v : ℚ) : Prop :=
  if x.sticky then p ≤ Nat.log2 x.n ∧ (x.n : ℚ) * 2 ^ x.e < v ∧ v < (x.n + 1) * 2 ^ x.e else v = x.n * 2 ^ x.e

theorem Mag.Known.brackets {x : Mag} {p : Nat} {v : ℚ} (h : x.Known p v) : x.Brackets v := by
  unfold Mag.Known at h
  unfold Mag.Brackets
  split
  · rw [if_pos ‹_›] at h; exact h.2
  · rwa [if_neg ‹_›] at h

theorem Mag.Known.of_exact {x : Mag} {p : Nat} (h : x.sticky = false) : x.Known p (x.n * 2 ^ x.e) := by
  unfold Mag.Known
  rw [h, if_neg (by simp)]

/-- Enough bits for `p` are enough for fewer. -/
theorem Mag.Known.mono {x : Mag} {p k : Nat} {v : ℚ} (h : x.Known p v) (hk : k ≤ p) : x.Known k v := by
  unfold Mag.Known at h ⊢
  split
  · rw [if_pos ‹_›] at h; exact ⟨hk.trans h.1, h.2⟩
  · rwa [if_neg ‹_›] at h

theorem Mag.Known.sticky_bits {x : Mag} {p : Nat} {v : ℚ} (h : x.Known p v) (hs : x.sticky = true) :
    p ≤ Nat.log2 x.n := by
  unfold Mag.Known at h
  rw [if_pos hs] at h
  exact h.1

/-- The quotient at the position of the last of `p` bits. -/
theorem Mag.Known.splits {x : Mag} {p : Nat} {v : ℚ} (h : x.Known p v) :
    (x.quot (x.exponent - p + 1)).Splits (v / 2 ^ (x.exponent - p + 1)) :=
  Mag.quot_splits h.brackets fun hs => by
    have := h.sticky_bits hs
    unfold Mag.exponent
    omega

/-- The significand before rounding has `p` bits. -/
theorem Mag.Known.significand {x : Mag} {p : Nat} {v : ℚ} (h : x.Known p v) (hn : 0 < x.n) (hp : 0 < p) :
    (2 : ℚ) ^ (p - 1) ≤ v / 2 ^ (x.exponent - p + 1) ∧ v / 2 ^ (x.exponent - p + 1) < 2 ^ p := by
  obtain ⟨h1, h2⟩ := h.brackets.binade hn
  have hpos := two_zpow_pos (x.exponent - p + 1)
  rw [le_div_iff₀ hpos, div_lt_iff₀ hpos, mul_comm, mul_comm (2 ^ p), zpow_mul_pow, zpow_mul_pow]
  rw [show x.exponent - p + 1 + ((p - 1 : ℕ) : ℤ) = x.exponent by omega,
    show x.exponent - p + 1 + (p : ℤ) = x.exponent + 1 by ring]
  exact ⟨h1, h2⟩

/-- The rounded significand has `p` bits, or is the power of two above them. -/
theorem Mag.Known.rounded {x : Mag} {p : Nat} {v : ℚ} (h : x.Known p v) (hn : 0 < x.n) (hp : 0 < p) (rc : BitVec 2)
    (neg : Bool) : 2 ^ (p - 1) ≤ (x.round p rc neg).1 ∧ (x.round p rc neg).1 ≤ 2 ^ p := by
  obtain ⟨h1, h2⟩ := h.significand hn hp
  have hl := h.splits.lower
  have hu := h.splits.upper
  rw [Mag.round_eq]
  have hf1 : 2 ^ (p - 1) ≤ (x.quot (x.exponent - p + 1)).floor := by
    have : ((2 ^ (p - 1) : ℕ) : ℚ) < (x.quot (x.exponent - p + 1)).floor + 1 := by push_cast; linarith
    exact Nat.lt_succ_iff.mp (by exact_mod_cast this)
  have hf2 : (x.quot (x.exponent - p + 1)).floor < 2 ^ p := by
    have : ((x.quot (x.exponent - p + 1)).floor : ℚ) < ((2 ^ p : ℕ) : ℚ) := by push_cast; linarith
    exact_mod_cast this
  rcases (x.quot (x.exponent - p + 1)).round_or rc neg with he | he <;> rw [he] <;> omega

/-- Settles O52. -/
theorem roundingByControl : Obligations.RoundingByControl := by
  intro n p sticky e rc neg v hn hp h x r q
  have hk : x.Known p v := h
  have hs := hk.splits
  refine ⟨(hk.rounded hn hp rc neg).1, (hk.rounded hn hp rc neg).2, hk.significand hn hp, ?_, hs.round_spec rc neg⟩
  rw [show r.2.2 = !(x.quot (x.exponent - p + 1)).exact from rfl, Bool.not_eq_false']
  exact hs.exact_iff rc neg

end Sys2Proof.Machine
end

section
/-! SUPPORT. The delivery of a result to a register: in range, overflow, underflow (spec/40_numerics.md R200 to
R203). -/

namespace Sys2Proof.Machine

/-! ### The three ways of a delivery -/

theorem Prec.bits_pos (prec : Prec) : 0 < prec.bits := by cases prec <;> decide
theorem Prec.bits_le (prec : Prec) : prec.bits ≤ 64 := by cases prec <;> decide

section Deliver
variable {cw : Control} {prec : Prec} {k : Nat} {neg : Bool} {x : Mag}

theorem deliver_tiny (hr : prec ≠ .reserved) (h : x.exponent < -16382) :
    deliver cw prec k neg x = underflow cw prec k neg x := by
  unfold deliver
  rw [if_neg hr, if_pos h]

theorem deliver_inRange (hr : prec ≠ .reserved) (h : -16382 ≤ x.exponent)
    (ht : (Nat.log2 (x.round prec.bits cw.rc neg).1 : ℤ) + (x.round prec.bits cw.rc neg).2.1 ≤ 16383) :
    deliver cw prec k neg x = ⟨{ ExcSet.none with p := (x.round prec.bits cw.rc neg).2.2 },
      packNorm neg (x.round prec.bits cw.rc neg).1 (x.round prec.bits cw.rc neg).2.1⟩ := by
  unfold deliver
  rw [if_neg hr, if_neg (not_lt.mpr h)]
  exact if_neg (not_lt.mpr ht)

theorem deliver_overflow (hr : prec ≠ .reserved) (h : -16382 ≤ x.exponent)
    (ht : 16383 < (Nat.log2 (x.round prec.bits cw.rc neg).1 : ℤ) + (x.round prec.bits cw.rc neg).2.1) :
    deliver cw prec k neg x = overflow cw k neg (x.round prec.bits cw.rc neg).1 (x.round prec.bits cw.rc neg).2.1
      (x.round prec.bits cw.rc neg).2.2 := by
  unfold deliver
  rw [if_neg hr, if_neg (not_lt.mpr h)]
  exact if_pos ht

end Deliver

/-- The leading bit of a rounded significand. -/
theorem Mag.Known.log2_rounded {x : Mag} {p : Nat} {v : ℚ} (h : x.Known p v) (hn : 0 < x.n) (hp : 0 < p)
    (rc : BitVec 2) (neg : Bool) :
    p - 1 ≤ Nat.log2 (x.round p rc neg).1 ∧ Nat.log2 (x.round p rc neg).1 ≤ p := by
  obtain ⟨h1, h2⟩ := h.rounded hn hp rc neg
  have hpos : (x.round p rc neg).1 ≠ 0 := (lt_of_lt_of_le (by positivity) h1).ne'
  constructor
  · exact (Nat.le_log2 hpos).mpr h1
  · by_contra hc
    have := (Nat.le_log2 hpos).mp (Nat.lt_of_not_ge hc)
    have h3 : 2 ^ p < 2 ^ (p + 1) := Nat.pow_lt_pow_right (by decide) (by omega)
    omega

/-- A rounded significand is positive and has at most 64 significant bits. -/
theorem Mag.Known.rounded_fits {x : Mag} {p : Nat} {v : ℚ} (h : x.Known p v) (hn : 0 < x.n) (hp : 0 < p)
    (hp64 : p ≤ 64) (rc : BitVec 2) (neg : Bool) :
    0 < (x.round p rc neg).1 ∧ Significant (x.round p rc neg).1 := by
  obtain ⟨h1, h2⟩ := h.rounded hn hp rc neg
  exact ⟨lt_of_lt_of_le (by positivity) h1,
    significant_of_le (h2.trans (Nat.pow_le_pow_right (by decide) hp64))⟩

/-- P is free of the rounding exactly where the rounded value is the number itself. -/
theorem Mag.Known.inexact_iff {x : Mag} {p : Nat} {v : ℚ} (h : x.Known p v) (rc : BitVec 2) (neg : Bool) :
    (x.round p rc neg).2.2 = false ↔ ((x.round p rc neg).1 : ℚ) * 2 ^ (x.round p rc neg).2.1 = v := by
  rw [show (x.round p rc neg).2.2 = !(x.quot (x.exponent - p + 1)).exact from rfl, Bool.not_eq_false',
    h.splits.exact_iff rc neg]
  exact eq_div_iff (two_zpow_pos _).ne'

/-- The value of a signed number in terms of its magnitude. -/
theorem signed_eq_iff {r : TReal} {neg : Bool} {a v : ℚ} (hs : signOf r = neg) (ha : |valueOf r| = a) :
    valueOf r = signFactor neg * v ↔ a = v := by
  rw [valueOf_eq_abs, hs, ha, mul_right_inj' (signFactor_ne_zero neg)]

/-- Settles O54. -/
theorem resultInRange : Obligations.ResultInRange := by
  intro cw prec k n sticky neg e v hr hn h x r hlo hhi d
  have hk : x.Known prec.bits v := h
  have hd : d = _ := deliver_inRange hr hlo hhi
  obtain ⟨hpos, hfits⟩ := hk.rounded_fits hn prec.bits_pos prec.bits_le cw.rc neg
  have hbits := prec.bits_pos
  have hlog := (hk.log2_rounded hn hbits cw.rc neg).1
  have ht : r.2.1 = x.exponent - prec.bits + 1 := rfl
  change prec.bits - 1 ≤ Nat.log2 r.1 at hlog
  obtain ⟨hc, hs, hv⟩ := packNorm_spec (neg := neg) (t := r.2.1) hpos hfits
    (by change 1 ≤ (Nat.log2 r.1 : ℤ) + r.2.1 + 16383; omega) (by change (Nat.log2 r.1 : ℤ) + r.2.1 + 16383 ≤ _; omega)
  rw [hd]
  exact ⟨hc, hs, hv, rfl, rfl, (hk.inexact_iff cw.rc neg).trans (signed_eq_iff hs hv).symm⟩

/-- A response with the exponent moved by 24,576, where the moved exponent is in range (R202, R203). -/
theorem packWrapped_spec {neg : Bool} {n k : Nat} {t : ℤ} (hn : 0 < n) (hs : Significant n)
    (h1 : 1 ≤ (Nat.log2 n : ℤ) + t + 16383) (h2 : (Nat.log2 n : ℤ) + t + 16383 ≤ 0x7FFE) :
    signOf (packWrapped neg n t k) = neg ∧ |valueOf (packWrapped neg n t k)| = n * 2 ^ t := by
  have hw : packWrapped neg n t k = packNorm neg n t := if_pos ⟨h1, h2⟩
  rw [hw]
  exact (packNorm_spec hn hs h1 h2).2

/-- Masked underflow of a 64-bit result: the significand is the quotient at the last bit of a denormal, rounded. -/
theorem denormalized_spec {x : Mag} {v : ℚ} (h : x.Known 64 v) (hn : 0 < x.n) (ht : x.exponent < -16382) :
    (x.quot (-16445)).Splits (v / 2 ^ (-16445 : ℤ)) ∧ 0 < v ∧
    ∀ rc neg, (x.quot (-16445)).round rc neg ≤ 2 ^ 63 := by
  obtain ⟨hlow, hup⟩ := h.brackets.binade hn
  have hs := Mag.quot_splits (t := -16445) h.brackets fun hs => by
    have := h.sticky_bits hs
    unfold Mag.exponent at ht
    omega
  refine ⟨hs, (two_zpow_pos _).trans_le hlow, fun rc neg => ?_⟩
  have hv : v / 2 ^ (-16445 : ℤ) < 2 ^ 63 := by
    rw [div_lt_iff₀ (two_zpow_pos _), mul_comm, zpow_mul_pow]
    exact hup.trans_le (zpow_le_zpow_right₀ one_le_two (by omega))
  have hf : (x.quot (-16445)).floor < 2 ^ 63 := by
    have h1 : ((x.quot (-16445)).floor : ℚ) < ((2 ^ 63 : ℕ) : ℚ) := hs.lower.trans_lt (by rw [Nat.cast_pow]; exact hv)
    exact_mod_cast h1
  rcases (x.quot (-16445)).round_or rc neg with he | he <;> rw [he] <;> omega

/-- The value of a significand at the least exponent. -/
theorem abs_valueOf_least {neg : Bool} {n : Nat} (h : n < 2 ^ 64) :
    signOf (pack neg 0 n) = neg ∧ |valueOf (pack neg 0 n)| = n * 2 ^ (-16445 : ℤ) := by
  refine ⟨signOf_pack (by decide) h, ?_⟩
  rw [abs_valueOf, sigOf_pack (by decide) h, unitOf, expOf_pack (by decide) h, if_pos rfl,
    show (1 : ℤ) - 16446 = -16445 by omega]

/-- The value delivered for a masked underflow is zero as a class where the significand is zero. -/
theorem underflowValue_spec {neg : Bool} {n : Nat} (h : n < 2 ^ 64) :
    let r := if n = 0 then zeroOf neg else pack neg 0 n
    signOf r = neg ∧ |valueOf r| = n * 2 ^ (-16445 : ℤ) ∧ (n = 0 → classOf r = .zero) := by
  intro r
  have hr : r = pack neg 0 n := by
    change (if n = 0 then zeroOf neg else pack neg 0 n) = _
    split
    · next h0 => rw [h0]; rfl
    · rfl
  rw [hr]
  obtain ⟨hs, hv⟩ := abs_valueOf_least (neg := neg) h
  exact ⟨hs, hv, fun h0 => by subst h0; exact classOf_zeroOf neg⟩

/-- Settles O55. -/
theorem overflowAndUnderflow : Obligations.OverflowAndUnderflow := by
  intro cw prec k n sticky neg e v hr hn h x r d
  have hk : x.Known prec.bits v := h
  have hbits := prec.bits_pos
  obtain ⟨hpos, hfits⟩ := hk.rounded_fits hn hbits prec.bits_le cw.rc neg
  obtain ⟨hlog1, hlog2⟩ := hk.log2_rounded hn hbits cw.rc neg
  have hinexact := hk.inexact_iff cw.rc neg
  have ht : r.2.1 = x.exponent - prec.bits + 1 := rfl
  change 0 < r.1 at hpos
  change Significant r.1 at hfits
  change prec.bits - 1 ≤ Nat.log2 r.1 at hlog1
  change Nat.log2 r.1 ≤ prec.bits at hlog2
  change r.2.2 = false ↔ (r.1 : ℚ) * 2 ^ r.2.1 = v at hinexact
  refine ⟨fun hlo hhi => ?_, fun htiny => ?_⟩
  · have hd : d = overflow cw k neg r.1 r.2.1 r.2.2 := deliver_overflow hr hlo hhi
    unfold overflow at hd
    cases hm : cw.masks.o
    · rw [hm, if_neg (by simp)] at hd
      rw [hd]
      refine ⟨rfl, rfl, nofun, fun _ hmax => ⟨hinexact, ?_⟩⟩
      obtain ⟨hs, hv⟩ := packWrapped_spec (neg := neg) (k := k) (t := r.2.1 - 24576) hpos hfits (by omega) (by omega)
      rw [valueOf_eq_abs, hs, hv, mul_assoc]
      rfl
    · rw [hm, if_pos rfl] at hd
      rw [hd]
      exact ⟨rfl, rfl, fun _ => ⟨rfl, fun hrc => if_pos hrc⟩, nofun⟩
  · have hd : d = underflow cw prec k neg x := deliver_tiny hr htiny
    unfold underflow at hd
    cases hm : cw.masks.u
    · rw [hm, if_neg (by simp)] at hd
      rw [hd]
      refine ⟨rfl, rfl, nofun, fun _ hmin => ⟨hinexact, ?_⟩⟩
      have hw := packWrapped_spec (neg := neg) (k := k) (t := r.2.1 + 24576) hpos hfits (by omega) (by omega)
      exact hw
    · rw [hm, if_pos rfl] at hd
      by_cases hp : prec = .p64
      · subst hp
        rw [if_pos rfl] at hd
        obtain ⟨hs, hv0, hle⟩ := denormalized_spec hk hn htiny
        have hle' := hle cw.rc neg
        obtain ⟨hsign, hval, hzero⟩ := underflowValue_spec (neg := neg) (n := (x.quot (-16445)).round cw.rc neg)
          (by omega)
        rw [hd]
        refine ⟨rfl, rfl, fun _ => ⟨hsign, fun _ => ⟨if neg then -((x.quot (-16445)).round cw.rc neg : ℤ)
          else (x.quot (-16445)).round cw.rc neg, ?_, ?_, ?_, ?_⟩⟩, nofun⟩
        · have hto := hs.roundsTo cw.rc neg (div_nonneg hv0.le (two_zpow_pos _).le)
          have hsv : (if neg then -v else v) = signFactor neg * v := by cases neg <;> simp [signFactor]
          rw [hsv, mul_div_assoc]
          exact hto
        · refine (valueOf_eq_abs _).trans ?_
          rw [hsign, hval]
          cases neg <;> simp [signFactor]
        · dsimp only
          rw [hval, Bool.not_eq_false', hs.exact_iff cw.rc neg, eq_div_iff (two_zpow_pos _).ne']
        · intro hm0
          refine hzero ?_
          cases neg <;> simpa using hm0
      · rw [if_neg hp] at hd
        rw [hd]
        refine ⟨rfl, rfl, fun _ => ⟨?_, fun h => absurd h hp⟩, nofun⟩
        exact signOf_pack (by decide) (BitVec.isLt _)

end Sys2Proof.Machine
end

section
/-! SUPPORT. The exact operations before rounding: sum, product, quotient and root (spec/40_numerics.md R190, R220,
spec/42_arithmetic.md R311). -/

namespace Sys2Proof.Machine

/-! ### Sums -/

/-- A number as a multiple of a finer unit has its value. -/
theorem Val.scaled_value {v : Val} {e : ℤ} (h : e ≤ v.e) : (v.scaled e : ℚ) * 2 ^ e = v.value := by
  have hm : ((v.m <<< (v.e - e).toNat : ℕ) : ℚ) * 2 ^ e = v.m * 2 ^ v.e := by
    rw [Nat.shiftLeft_eq, Nat.cast_mul, Nat.cast_pow, Nat.cast_ofNat, mul_assoc, mul_comm (2 ^ (v.e - e).toNat),
      zpow_mul_pow, Int.toNat_of_nonneg (by omega), add_sub_cancel]
  rw [v.value_eq, ← hm]
  unfold Val.scaled signFactor
  dsimp only
  split
  · rw [Int.cast_neg, Int.cast_natCast]; ring
  · rw [Int.cast_natCast, one_mul]

/-- A signed integer in a unit. -/
theorem value_of_int (x : ℤ) (e : ℤ) : (⟨decide (x < 0), x.natAbs, e⟩ : Val).value = x * 2 ^ e := by
  rw [Val.value_eq, ← mul_assoc]
  congr 1
  have habs : ((x.natAbs : ℕ) : ℚ) = |(x : ℚ)| := by rw [Nat.cast_natAbs, Int.cast_abs]
  dsimp only
  rw [habs]
  by_cases h : x < 0
  · rw [decide_eq_true h, abs_of_neg (by exact_mod_cast h)]; simp [signFactor]
  · rw [decide_eq_false h, abs_of_nonneg (by exact_mod_cast not_lt.mp h)]; simp [signFactor]

theorem Val.add_eq (a b : Val) : a.add b =
    ⟨decide (a.scaled (min a.e b.e) + b.scaled (min a.e b.e) < 0),
      (a.scaled (min a.e b.e) + b.scaled (min a.e b.e)).natAbs, min a.e b.e⟩ := rfl

/-- The sum in the finer of the two units. -/
theorem Val.sum_scaled (a b : Val) :
    ((a.scaled (min a.e b.e) + b.scaled (min a.e b.e) : ℤ) : ℚ) * 2 ^ min a.e b.e = a.value + b.value := by
  rw [Int.cast_add, add_mul, Val.scaled_value (min_le_left _ _), Val.scaled_value (min_le_right _ _)]

/-- The sum is exact. -/
theorem Val.add_value (a b : Val) : (a.add b).value = a.value + b.value := by
  rw [Val.add_eq, value_of_int, Val.sum_scaled]

/-- Its sign is that of the value. -/
theorem Val.add_neg (a b : Val) : (a.add b).neg = decide (a.value + b.value < 0) := by
  rw [Val.add_eq, ← Val.sum_scaled]
  refine decide_eq_decide.mpr ?_
  rw [mul_neg_iff, or_iff_right (fun h => absurd h.2 (not_lt.mpr (two_zpow_pos _).le)),
    and_iff_left (two_zpow_pos _)]
  exact Int.cast_lt_zero.symm

/-- It is zero exactly where nothing is left. -/
theorem Val.add_m_eq_zero (a b : Val) : (a.add b).m = 0 ↔ a.value + b.value = 0 := by
  rw [Val.add_eq, ← Val.sum_scaled, mul_eq_zero, or_iff_left (two_zpow_pos _).ne', Int.cast_eq_zero]
  exact Int.natAbs_eq_zero

/-! ### The quotient -/

/-- A quotient of natural numbers and what it leaves. -/
theorem div_brackets (n : Nat) {b : Nat} (hb : 0 < b) :
    ((n / b : ℕ) : ℚ) ≤ n / b ∧ (n : ℚ) / b < (n / b : ℕ) + 1 ∧ (n % b = 0 ↔ ((n / b : ℕ) : ℚ) = n / b) := by
  have hbq : (0 : ℚ) < b := by exact_mod_cast hb
  refine ⟨Nat.cast_div_le, ?_, ?_⟩
  · rw [div_lt_iff₀ hbq]
    have h : n < (n / b + 1) * b := by
      have h1 := Nat.div_add_mod n b
      have h2 := Nat.mod_lt n hb
      nlinarith
    exact_mod_cast h
  · rw [eq_div_iff hbq.ne']
    constructor
    · intro h0
      exact_mod_cast Nat.div_mul_cancel (Nat.dvd_of_mod_eq_zero h0)
    · intro h0
      have h1 : n / b * b = n := by exact_mod_cast h0
      exact Nat.mod_eq_zero_of_dvd ⟨n / b, by rw [mul_comm, h1]⟩

/-- The dividend in the unit of the quotient. -/
theorem Val.ratio_eq (a b : Val) : (a.m * 2 ^ a.e / (b.m * 2 ^ b.e) : ℚ) =
    ((a.m <<< 68 : ℕ) : ℚ) / b.m * 2 ^ (a.e - b.e - 68) := by
  have he : (2 : ℚ) ^ a.e = 2 ^ 68 * 2 ^ (a.e - b.e - 68) * 2 ^ b.e := by
    rw [mul_comm (2 ^ 68), zpow_mul_pow, ← zpow_add₀ two_ne_zero]
    congr 1
    push_cast
    ring
  rw [he, Nat.shiftLeft_eq, Nat.cast_mul, Nat.cast_pow, Nat.cast_ofNat, ← mul_assoc,
    mul_div_mul_right _ _ (two_zpow_pos b.e).ne']
  generalize (2 : ℚ) ^ (a.e - b.e - 68) = u
  rw [← mul_assoc, mul_div_right_comm]

/-- The quotient is bracketed, with a remark whether anything is left. -/
theorem Val.quotient_spec {a b : Val} (hb : 0 < b.m) :
    let q := a.quotient b
    let x : ℚ := a.m * 2 ^ a.e / (b.m * 2 ^ b.e)
    (q.n : ℚ) * 2 ^ q.e ≤ x ∧ x < (q.n + 1) * 2 ^ q.e ∧ (q.sticky = false ↔ (q.n : ℚ) * 2 ^ q.e = x) := by
  intro q x
  have hx : x = _ := Val.ratio_eq a b
  rw [hx]
  unfold q Val.quotient
  dsimp only
  generalize a.m <<< 68 = n
  have hu := two_zpow_pos (a.e - b.e - 68)
  obtain ⟨h1, h2, h3⟩ := div_brackets n hb
  refine ⟨mul_le_mul_of_nonneg_right h1 hu.le, mul_lt_mul_of_pos_right h2 hu, ?_⟩
  rw [mul_left_inj' hu.ne', ← h3, decide_eq_false_iff_not, not_not]

/-- A quotient of 64-bit significands has more than 64 bits. -/
theorem Val.quotient_bits {a b : Val} (ha : 2 ^ 63 ≤ a.m) (hb : 0 < b.m) (hb64 : b.m < 2 ^ 64) :
    64 ≤ Nat.log2 (a.quotient b).n := by
  have hle : 2 ^ 64 ≤ (a.quotient b).n := by
    change 2 ^ 64 ≤ a.m <<< 68 / b.m
    rw [Nat.shiftLeft_eq, Nat.le_div_iff_mul_le hb]
    omega
  exact (Nat.le_log2 (by omega)).mpr hle

/-! ### The square root -/

/-- The integer square root. -/
theorem isqrt_spec (n k : Nat) (h : n < 4 ^ k) :
    isqrt n k * isqrt n k ≤ n ∧ n < (isqrt n k + 1) * (isqrt n k + 1) := by
  induction k generalizing n with
  | zero => simp [isqrt]; omega
  | succ k ih =>
    obtain ⟨h1, h2⟩ := ih (n / 4) (by rw [pow_succ] at h; omega)
    unfold isqrt
    dsimp only
    generalize isqrt (n / 4) k = s at *
    have h3 : 4 * (s * s) ≤ n := by omega
    have h4 : n < 4 * ((s + 1) * (s + 1)) := by omega
    split
    · next hle => exact ⟨hle, by nlinarith⟩
    · next hle => exact ⟨by nlinarith, by omega⟩

/-- The shift that makes the exponent even. -/
theorem sqrt_shift (e : ℤ) : ∃ sh : ℕ, (if e % 2 = 0 then 72 else 73) = sh ∧ 72 ≤ sh ∧ sh ≤ 73 ∧
    2 * ((e - sh) / 2) = e - sh := by
  by_cases h : e % 2 = 0
  · exact ⟨72, if_pos h, by omega, by omega, by omega⟩
  · exact ⟨73, if_neg h, by omega, by omega, by omega⟩

/-- The root is bracketed, with a remark whether anything is left. -/
theorem Val.sqrt_spec {v : Val} (hv : v.m < 2 ^ 64) :
    let r := v.sqrt
    let x : ℚ := v.m * 2 ^ v.e
    ((r.n : ℚ) * 2 ^ r.e) ^ 2 ≤ x ∧ x < ((r.n + 1) * 2 ^ r.e) ^ 2 ∧
    (r.sticky = false ↔ ((r.n : ℚ) * 2 ^ r.e) ^ 2 = x) ∧ (2 ^ 63 ≤ v.m → 64 ≤ Nat.log2 r.n) := by
  intro r x
  obtain ⟨sh, hsh, hsh1, hsh2, heven⟩ := sqrt_shift v.e
  have hr : r = ⟨isqrt (v.m * 2 ^ sh) 70, isqrt (v.m * 2 ^ sh) 70 * isqrt (v.m * 2 ^ sh) 70 ≠ v.m * 2 ^ sh,
      (v.e - sh) / 2⟩ := by
    rw [← Nat.shiftLeft_eq, ← hsh]; rfl
  have hpow : 2 ^ sh ≤ 2 ^ 73 := Nat.pow_le_pow_right (by decide) hsh2
  have hpow' : 2 ^ 72 ≤ 2 ^ sh := Nat.pow_le_pow_right (by decide) hsh1
  have hlt : v.m * 2 ^ sh < 4 ^ 70 := by
    calc v.m * 2 ^ sh ≤ v.m * 2 ^ 73 := Nat.mul_le_mul_left _ hpow
      _ < 4 ^ 70 := by omega
  obtain ⟨h1, h2⟩ := isqrt_spec _ _ hlt
  have hsq (y : ℚ) : (y * 2 ^ r.e) ^ 2 = y * y * 2 ^ (v.e - sh) := by
    rw [mul_pow, ← zpow_natCast (2 ^ r.e), ← zpow_mul, sq]
    congr 2
    rw [hr]
    push_cast
    omega
  have hx : x = (v.m * 2 ^ sh : ℕ) * 2 ^ (v.e - sh) := by
    change (v.m : ℚ) * 2 ^ v.e = _
    push_cast
    rw [mul_assoc, mul_comm (2 ^ sh), zpow_mul_pow, sub_add_cancel]
  have hu := two_zpow_pos (v.e - sh)
  have hn : r.n = isqrt (v.m * 2 ^ sh) 70 := by rw [hr]
  rw [← hn] at h1 h2
  rw [hsq, hsq, hx]
  refine ⟨?_, ?_, ?_, fun hm => ?_⟩
  · exact mul_le_mul_of_nonneg_right (by exact_mod_cast h1) hu.le
  · exact mul_lt_mul_of_pos_right (by exact_mod_cast h2) hu
  · rw [mul_left_inj' hu.ne']
    have hs : r.sticky = decide (r.n * r.n ≠ v.m * 2 ^ sh) := by rw [hr]
    rw [hs, decide_eq_false_iff_not, not_not]
    exact_mod_cast Iff.rfl
  · refine (Nat.le_log2 ?_).mpr ?_
    · rintro h0
      rw [h0] at h2
      have : 0 < v.m * 2 ^ sh := by positivity
      omega
    · by_contra hlt64
      have hle : r.n + 1 ≤ 2 ^ 64 := by omega
      have h3 : (r.n + 1) * (r.n + 1) ≤ 2 ^ 64 * 2 ^ 64 := Nat.mul_le_mul hle hle
      have h4 : 2 ^ 63 * 2 ^ 72 ≤ v.m * 2 ^ sh := Nat.mul_le_mul hm hpow'
      omega

/-! ### The basic operations on numbers -/

/-- A number of the core domain, as the statements say it. -/
def FiniteReal (r : TReal) : Prop := classOf r = .zero ∨ classOf r = .normal

theorem FiniteReal.negate {r : TReal} (h : FiniteReal r) : FiniteReal (negate r) := by
  unfold FiniteReal; rwa [classOf_negate]

section Finite
variable {list : ExcSet} {cw : Control} {k : Nat} {op : BasicOp} {rev : Bool} {dst src : TReal}

/-- Neither in the extended domain, nor a NAN, nor an infinity. -/
theorem FiniteReal.class {r : TReal} (h : FiniteReal r) :
    (classOf r).extended = false ∧ classOf r ≠ .nan ∧ classOf r ≠ .infinity := by
  rcases h with h | h <;> rw [h] <;> exact ⟨rfl, nofun, nofun⟩

/-- Of two numbers the operation is the one on numbers. -/
theorem arithOrdered_finite {nan a b : TReal} (ha : FiniteReal a) (hb : FiniteReal b) :
    arithOrdered list cw k .add nan a b = addFinite cw k a b ∧
    arithOrdered list cw k .sub nan a b = addFinite cw k a (negate b) ∧
    arithOrdered list cw k .mul nan a b = mulFinite cw k a b ∧
    arithOrdered list cw k .div nan a b = divFinite cw k a b := by
  obtain ⟨ha1, ha2, ha3⟩ := ha.class
  obtain ⟨hb1, hb2, hb3⟩ := hb.class
  have hext : ¬ ((classOf a).extended || (classOf b).extended) = true := by rw [ha1, hb1]; simp
  have hnan : ¬ (classOf a = .nan ∨ classOf b = .nan) := not_or.mpr ⟨ha2, hb2⟩
  have hinf : ¬ (classOf a = .infinity ∨ classOf b = .infinity) := not_or.mpr ⟨ha3, hb3⟩
  unfold arithOrdered
  rw [if_neg hext, if_neg hext, if_neg hext, if_neg hext, if_neg hnan, if_neg hnan, if_neg hnan, if_neg hnan,
    if_neg hinf, if_neg hinf, if_neg hinf, if_neg hinf]
  exact ⟨rfl, rfl, rfl, rfl⟩

theorem FiniteReal.ite {p : Prop} [Decidable p] {a b : TReal} (ha : FiniteReal a) (hb : FiniteReal b) :
    FiniteReal (if p then a else b) := by
  split <;> assumption

end Finite

/-- A sum that is not zero is delivered exactly, with its sign. -/
theorem addFinite_delivers {cw : Control} {k : Nat} {a b : TReal} (h : valueOf a + valueOf b ≠ 0) :
    ∃ x : Mag, x.sticky = false ∧
      addFinite cw k a b =
        .ofDelivered (deliver cw (precOf cw.pc) k (decide (valueOf a + valueOf b < 0)) x) ∧
      (x.n : ℚ) * 2 ^ x.e = |valueOf a + valueOf b| := by
  refine ⟨.ofVal ((valOf a).add (valOf b)), rfl, ?_, ?_⟩
  · unfold addFinite
    dsimp only
    rw [if_neg (fun h0 => h (((valOf a).add_m_eq_zero (valOf b)).mp h0)), Val.add_neg]
    rfl
  · exact ((valOf a).add (valOf b)).abs_value.symm.trans (by rw [Val.add_value]; rfl)

/-- A sum that is zero. -/
theorem addFinite_zero {cw : Control} {k : Nat} {a b : TReal} (h : valueOf a + valueOf b = 0) :
    addFinite cw k a b = .exact (zeroOf (if sigOf a = 0 ∧ signOf a = signOf b then signOf a else cw.rc = 1)) := by
  unfold addFinite
  dsimp only
  rw [if_pos (((valOf a).add_m_eq_zero (valOf b)).mpr h)]

/-- A product of two numbers that are not zero is delivered exactly. -/
theorem mulFinite_delivers {cw : Control} {k : Nat} {a b : TReal} (ha : 0 < sigOf a) (hb : 0 < sigOf b) :
    ∃ x : Mag, x.sticky = false ∧
      mulFinite cw k a b = .ofDelivered (deliver cw (precOf cw.pc) k (signOf a ^^ signOf b) x) ∧
      (x.n : ℚ) * 2 ^ x.e = |valueOf a| * |valueOf b| := by
  refine ⟨⟨sigOf a * sigOf b, false, unitOf a + unitOf b⟩, rfl, if_neg (Nat.mul_pos ha hb).ne', ?_⟩
  rw [abs_valueOf, abs_valueOf, zpow_add₀ two_ne_zero]
  push_cast
  ring

theorem mulFinite_zero {cw : Control} {k : Nat} {a b : TReal} (h : sigOf a = 0 ∨ sigOf b = 0) :
    mulFinite cw k a b = .exact (zeroOf (signOf a ^^ signOf b)) :=
  if_pos (by rcases h with h | h <;> rw [h] <;> simp)

theorem divFinite_delivers {cw : Control} {k : Nat} {a b : TReal} (ha : 0 < sigOf a) (hb : 0 < sigOf b) :
    divFinite cw k a b =
      .ofDelivered (deliver cw (precOf cw.pc) k (signOf a ^^ signOf b) ((valOf a).quotient (valOf b))) := by
  unfold divFinite
  dsimp only
  rw [if_neg hb.ne', if_neg ha.ne']

theorem divFinite_zero {cw : Control} {k : Nat} {a b : TReal} (ha : sigOf a = 0) (hb : 0 < sigOf b) :
    divFinite cw k a b = .exact (zeroOf (signOf a ^^ signOf b)) := by
  unfold divFinite
  dsimp only
  rw [if_neg hb.ne', if_pos ha]

/-- The root of a positive number. -/
theorem sqrtOf_positive {cw : Control} {k : Nat} {a : TReal} (h : classOf a = .normal) (hs : signOf a = false) :
    sqrtOf cw k a = ⟨.none, { ExcSet.none with p := (deliver cw (precOf cw.pc) k false (valOf a).sqrt).ex.p },
      (deliver cw (precOf cw.pc) k false (valOf a).sqrt).value⟩ := by
  unfold sqrtOf
  rw [h, if_neg (by decide), hs]
  rfl

/-- Settles O53. -/
theorem operationsAreExactBeforeRounding : Obligations.OperationsAreExactBeforeRounding := by
  refine ⟨?_, fun cw k a h hs => sqrtOf_positive h hs, fun a b => a.add_value b, fun a b hb => ?_, fun r hr => ?_,
    fun v hv => Val.sqrt_spec hv⟩
  · intro list cw k rev dst src hdst hsrc a b Delivers
    have ha : FiniteReal a := FiniteReal.ite (p := rev = true) hsrc hdst
    have hb : FiniteReal b := FiniteReal.ite (p := rev = true) hdst hsrc
    obtain ⟨hadd, hsub, hmul, hdiv⟩ :=
      arithOrdered_finite (list := list) (cw := cw) (k := k) (nan := nanOf dst src) ha hb
    refine ⟨fun h => ?_, fun h => ?_, fun hna hnb => ⟨?_, ?_⟩⟩
    · obtain ⟨x, hs, hx, hv⟩ := addFinite_delivers (cw := cw) (k := k) h
      exact ⟨x, hs, hadd.trans hx, hv⟩
    · rw [sub_eq_add_neg, ← valueOf_negate] at h ⊢
      obtain ⟨x, hs, hx, hv⟩ := addFinite_delivers (cw := cw) (k := k) h
      exact ⟨x, hs, hsub.trans hx, hv⟩
    · obtain ⟨x, hs, hx, hv⟩ :=
        mulFinite_delivers (cw := cw) (k := k) (sigOf_pos_of_normal hna) (sigOf_pos_of_normal hnb)
      exact ⟨x, hs, hmul.trans hx, hv⟩
    · exact hdiv.trans (divFinite_delivers (sigOf_pos_of_normal hna) (sigOf_pos_of_normal hnb))
  · obtain ⟨h1, h2, h3⟩ := Val.quotient_spec (a := a) hb
    exact ⟨h1, h2, h3, fun ha hb64 => Val.quotient_bits ha hb hb64⟩
  · exact ⟨(classOf_normal_iff.mp hr).2.2, sigOf_lt r⟩

/-! ### Zero results -/

/-- Settles O60: a zero sum takes the sign of two zeros of one effective sign, else that of rounding down; a product
or quotient the product of the signs. -/
theorem signsOfZeroResults : Obligations.SignsOfZeroResults := by
  intro list cw k rev a b ha hb Is
  have hx : FiniteReal (if rev then b else a) := FiniteReal.ite (p := rev = true) hb ha
  have hy : FiniteReal (if rev then a else b) := FiniteReal.ite (p := rev = true) ha hb
  obtain ⟨hadd, hsub, hmul, hdiv⟩ :=
    arithOrdered_finite (list := list) (cw := cw) (k := k) (nan := nanOf a b) hx hy
  have hzero {r : TReal} (h : classOf r = .zero) : sigOf r = 0 := (classOf_zero_iff.mp h).2
  refine ⟨fun hn hv => ?_, fun hn hv => ?_, fun hza hzb => ⟨?_, ?_⟩, fun hz => ?_, fun hz => ?_⟩
  · refine hsub.trans ((addFinite_zero ?_).trans ?_)
    · rw [valueOf_negate]; cases rev <;> simp [hv]
    · have h0 : valueOf a ≠ 0 := fun e => (sigOf_pos_of_normal hn).ne' (valueOf_eq_zero.mp e)
      rw [if_neg]
      · rfl
      · rintro ⟨he, -⟩
        rw [← valueOf_eq_zero] at he
        cases rev
        · exact h0 he
        · exact h0 (hv.trans he)
  · refine hadd.trans ((addFinite_zero ?_).trans ?_)
    · cases rev <;> simp [hv]
    · have h0 : valueOf a ≠ 0 := fun e => (sigOf_pos_of_normal hn).ne' (valueOf_eq_zero.mp e)
      rw [if_neg]
      · rfl
      · rintro ⟨he, -⟩
        rw [← valueOf_eq_zero] at he
        cases rev
        · exact h0 he
        · exact h0 (hv.trans (by simpa using he))
  · refine hadd.trans ((addFinite_zero ?_).trans ?_)
    · cases rev <;> simp [valueOf_of_zero hza, valueOf_of_zero hzb]
    · cases rev
      · simp only [Bool.false_eq_true, if_false, hzero hza, true_and]; rfl
      · simp only [if_true, hzero hzb, true_and]
        by_cases hs : signOf a = signOf b
        · rw [if_pos hs.symm, if_pos hs, hs]; rfl
        · rw [if_neg (Ne.symm hs), if_neg hs]; rfl
  · refine hsub.trans ((addFinite_zero ?_).trans ?_)
    · rw [valueOf_negate]; cases rev <;> simp [valueOf_of_zero hza, valueOf_of_zero hzb]
    · cases rev
      · simp only [Bool.false_eq_true, if_false, hzero hza, true_and, signOf_negate]
        by_cases hs : signOf a = signOf b
        · rw [if_neg (by rw [hs]; simp), if_pos hs]; rfl
        · rw [if_pos (Bool.eq_not_of_ne hs), if_neg hs]; rfl
      · simp only [if_true, hzero hzb, true_and, signOf_negate]
        by_cases hs : signOf a = signOf b
        · rw [if_neg (by rw [hs]; simp), if_pos hs]; rfl
        · rw [if_pos (Bool.eq_not_of_ne (Ne.symm hs)), if_neg hs]; rfl
  · refine hmul.trans ((mulFinite_zero ?_).trans ?_)
    · cases rev
      · exact hz.imp hzero hzero
      · exact hz.symm.imp hzero hzero
    · cases rev
      · rfl
      · simp only [if_true]; rw [Bool.xor_comm]; rfl
  · cases rev
    · obtain ⟨hz1, hn⟩ : classOf a = .zero ∧ classOf b = .normal := by simpa using hz
      exact hdiv.trans (divFinite_zero (hzero hz1) (sigOf_pos_of_normal hn))
    · obtain ⟨hn, hz1⟩ : classOf a = .normal ∧ classOf b = .zero := by simpa using hz
      refine hdiv.trans ((divFinite_zero (hzero hz1) (sigOf_pos_of_normal hn)).trans ?_)
      rw [Bool.xor_comm]; rfl

end Sys2Proof.Machine
end

section
/-! SUPPORT. Special operands of the basic operations, and the order of two numbers (spec/40_numerics.md R186, R187,
R220, R221, R227). -/

namespace Sys2Proof.Machine

/-! ### Operands of the extended domain -/

theorem Class.extended_of_denormalOperand {c : Class} (h : c.denormalOperand = true) : c.extended = true := by
  cases c <;> first | rfl | exact nomatch h

/-- What an open operation finds where an operand is a denormal or an unnormal (R227; log 23). -/
theorem openBefore_denormal {list masks : ExcSet} {a b : TReal} (r : OpenResult)
    (h : ((classOf a).denormalOperand || (classOf b).denormalOperand) = true) :
    (list.d = true → (openBefore list masks a b r).d = true) ∧
    (masks.d = false → openBefore list masks a b r =
      { ExcSet.onlyD with i := decide (classOf a = .nan ∨ classOf b = .nan) }) := by
  unfold openBefore
  dsimp only
  rw [h, Bool.true_and, Bool.true_and, Bool.decide_or]
  constructor
  · intro hl
    split
    · rfl
    · dsimp only; rw [hl, Bool.or_true]
  · intro hm
    rw [hm]
    rfl

theorem arithOrdered_extended {list : ExcSet} {cw : Control} {k : Nat} {op : BasicOp} {nan a b : TReal}
    (h : ((classOf a).extended || (classOf b).extended) = true) :
    arithOrdered list cw k op nan a b = openComputed op.toOpen list cw a b := if_pos h

/-- The operands in either order: one of two is a denormal operand. -/
theorem denormal_ite {rev : Bool} {dst src : TReal}
    (h : (classOf dst).denormalOperand = true ∨ (classOf src).denormalOperand = true) :
    ((classOf (if rev then src else dst)).denormalOperand || (classOf (if rev then dst else src)).denormalOperand) =
      true := by
  cases rev
  · exact Bool.or_eq_true_iff.mpr h
  · exact Bool.or_eq_true_iff.mpr h.symm

theorem arith_denormal {list : ExcSet} {cw : Control} {k : Nat} {op : BasicOp} {rev : Bool} {dst src : TReal}
    (h : (classOf dst).denormalOperand = true ∨ (classOf src).denormalOperand = true) :
    (list.d = true → (arith list cw k op rev dst src).before.d = true) ∧
    (cw.masks.d = false → (arith list cw k op rev dst src).before =
      { ExcSet.onlyD with i := decide (classOf dst = .nan ∨ classOf src = .nan) }) := by
  have hden := denormal_ite (rev := rev) h
  have hext : ((classOf (if rev then src else dst)).extended || (classOf (if rev then dst else src)).extended) =
      true := by
    rw [Bool.or_eq_true] at hden ⊢
    exact hden.imp Class.extended_of_denormalOperand Class.extended_of_denormalOperand
  unfold arith
  rw [arithOrdered_extended hext]
  obtain ⟨h1, h2⟩ := openBefore_denormal (list := list) (masks := cw.masks)
    (Config.openArith op.toOpen (if rev then src else dst) (if rev then dst else src) cw.toBits) hden
  refine ⟨h1, fun hm => (h2 hm).trans ?_⟩
  cases rev
  · rfl
  · exact congrArg (fun b => ({ ExcSet.onlyD with i := b } : ExcSet)) (decide_eq_decide.mpr or_comm)

/-! ### NANs and infinities -/

section Core
variable {list : ExcSet} {cw : Control} {k : Nat} {op : BasicOp} {nan a b : TReal}

/-- A NAN makes the operation invalid. -/
theorem arithOrdered_nan (ha : (classOf a).extended = false) (hb : (classOf b).extended = false)
    (h : classOf a = .nan ∨ classOf b = .nan) : arithOrdered list cw k op nan a b = .invalid nan := by
  unfold arithOrdered
  rw [ha, hb, if_neg (by simp), if_pos h]

/-- An infinity, without a NAN, follows the table (R186). -/
theorem arithOrdered_infinite (ha : (classOf a).extended = false) (hb : (classOf b).extended = false)
    (hna : classOf a ≠ .nan) (hnb : classOf b ≠ .nan) (h : classOf a = .infinity ∨ classOf b = .infinity) :
    (∀ v, arithInfinite cw.ic op a b = some v → arithOrdered list cw k op nan a b = .exact v) ∧
    (arithInfinite cw.ic op a b = none → arithOrdered list cw k op nan a b = .invalid indefinite) := by
  have hnan : ¬ (classOf a = .nan ∨ classOf b = .nan) := not_or.mpr ⟨hna, hnb⟩
  unfold arithOrdered
  rw [ha, hb, if_neg (by simp), if_neg hnan, if_pos h]
  exact ⟨fun v hv => by rw [hv], fun hv => by rw [hv]⟩

end Core

section Infinite
variable {affine : Bool} {a b : TReal}

theorem arithInfinite_sub : arithInfinite affine .sub a b = arithInfinite affine .add a (negate b) := by
  unfold arithInfinite
  dsimp only
  rw [classOf_negate]

theorem arithInfinite_add_both (ha : classOf a = .infinity) (hb : classOf b = .infinity) :
    arithInfinite affine .add a b = if affine && signOf a = signOf b then some a else none := by
  unfold arithInfinite
  rw [ha, hb]
  rfl

theorem arithInfinite_add_left (ha : classOf a = .infinity) (hb : classOf b ≠ .infinity) :
    arithInfinite affine .add a b = some a := by
  unfold arithInfinite
  rw [ha, decide_eq_false hb]
  rfl

theorem arithInfinite_add_right (ha : classOf a ≠ .infinity) : arithInfinite affine .add a b = some b := by
  unfold arithInfinite
  rw [decide_eq_false ha]
  rfl

theorem arithInfinite_mul (h : classOf a ≠ .zero ∧ classOf b ≠ .zero) :
    arithInfinite affine .mul a b = some (infOf (signOf a ^^ signOf b)) := by
  unfold arithInfinite
  exact if_neg (not_or.mpr h)

theorem arithInfinite_mul_zero (h : classOf a = .zero ∨ classOf b = .zero) :
    arithInfinite affine .mul a b = none := by
  unfold arithInfinite
  exact if_pos h

theorem arithInfinite_div_both (ha : classOf a = .infinity) (hb : classOf b = .infinity) :
    arithInfinite affine .div a b = none := by
  unfold arithInfinite
  rw [ha, hb]
  rfl

theorem arithInfinite_div_left (ha : classOf a = .infinity) (hb : classOf b ≠ .infinity) :
    arithInfinite affine .div a b = some (infOf (signOf a ^^ signOf b)) := by
  unfold arithInfinite
  rw [ha, decide_eq_false hb]
  rfl

theorem arithInfinite_div_right (ha : classOf a ≠ .infinity) :
    arithInfinite affine .div a b = some (zeroOf (signOf a ^^ signOf b)) := by
  unfold arithInfinite
  rw [decide_eq_false ha]
  rfl

end Infinite

/-- An infinity in either place, without a NAN, in terms of the two operands of the instruction. -/
theorem arith_infinite {list : ExcSet} {cw : Control} {k : Nat} {op : BasicOp} {dst src : TReal}
    (hd : (classOf dst).extended = false) (hs : (classOf src).extended = false) (hnd : classOf dst ≠ .nan)
    (hns : classOf src ≠ .nan) (h : classOf dst = .infinity ∨ classOf src = .infinity) :
    ((∀ v, arithInfinite cw.ic op dst src = some v → arith list cw k op false dst src = ⟨.none, .none, v⟩) ∧
      (arithInfinite cw.ic op dst src = none → arith list cw k op false dst src = ⟨.onlyI, .none, indefinite⟩)) ∧
    (∀ v, arithInfinite cw.ic op src dst = some v → arith list cw k op true dst src = ⟨.none, .none, v⟩) ∧
      (arithInfinite cw.ic op src dst = none → arith list cw k op true dst src = ⟨.onlyI, .none, indefinite⟩) :=
  ⟨arithOrdered_infinite hd hs hnd hns h, arithOrdered_infinite hs hd hns hnd h.symm⟩

/-- The NAN that is returned. -/
theorem nanOf_dst {dst src : TReal} (h : classOf dst = .nan) (hs : classOf src = .nan → sigOf src ≤ sigOf dst) :
    nanOf dst src = dst := by
  unfold nanOf
  rw [if_pos h, if_neg (fun hh => absurd hh.2 (not_lt.mpr (hs hh.1)))]

theorem nanOf_src {dst src : TReal} (h : classOf src = .nan) (hs : classOf dst = .nan → sigOf dst < sigOf src) :
    nanOf dst src = src := by
  unfold nanOf
  by_cases hd : classOf dst = .nan
  · rw [if_pos hd, if_pos ⟨h, hs hd⟩]
  · rw [if_neg hd]

theorem extended_ite {rev : Bool} {dst src : TReal} (hd : (classOf dst).extended = false)
    (hs : (classOf src).extended = false) : (classOf (if rev then src else dst)).extended = false := by
  cases rev
  · exact hd
  · exact hs

theorem arith_nan {list : ExcSet} {cw : Control} {k : Nat} (op : BasicOp) (rev : Bool) {dst src : TReal}
    (hd : (classOf dst).extended = false) (hs : (classOf src).extended = false)
    (h : classOf dst = .nan ∨ classOf src = .nan) :
    arith list cw k op rev dst src = ⟨.onlyI, .none, nanOf dst src⟩ := by
  cases rev
  · exact arithOrdered_nan hd hs h
  · exact arithOrdered_nan hs hd h.symm

/-- A division by zero. -/
theorem divFinite_by_zero {cw : Control} {k : Nat} {a b : TReal} (hb : sigOf b = 0) :
    divFinite cw k a b = if sigOf a = 0 then .invalid indefinite else ⟨.onlyZ, .none, infOf (signOf a ^^ signOf b)⟩ := by
  unfold divFinite
  dsimp only
  rw [if_pos hb]

/-- The register forms: a basic operation of ST and ST(k), either way. -/
theorem exec_registerArith_any (s : State) (k : BitVec 3) {i : Instr} (h : i ∈ [.faddSt k, .fsubSt k, .fsubrSt k,
      .fmulSt k, .fdivSt k, .fdivrSt k, .faddSti k, .fsubSti k, .fsubrSti k, .fmulSti k, .fdivSti k, .fdivrSti k,
      .faddp k, .fsubp k, .fsubrp k, .fmulp k, .fdivp k, .fdivrp k]) :
    ∃ list op rev d src pop, exec i s = .next ((s.begin none).basic list op rev d (s.sourceSt src) pop) ∧
      TopAnd k d src := by
  have h' : i ∈ List.map (fun r : Instr × BitVec 3 × Bool => r.1) [
    (Instr.faddSt k, (0 : BitVec 3), false), (.fsubSt k, 0, false), (.fsubrSt k, 0, false), (.fmulSt k, 0, false),
    (.fdivSt k, 0, false), (.fdivrSt k, 0, false), (.faddSti k, k, false), (.fsubSti k, k, false),
    (.fsubrSti k, k, false), (.fmulSti k, k, false), (.fdivSti k, k, false), (.fdivrSti k, k, false),
    (.faddp k, k, true), (.fsubp k, k, true), (.fsubrp k, k, true), (.fmulp k, k, true), (.fdivp k, k, true),
    (.fdivrp k, k, true)] := h
  obtain ⟨r, hr, rfl⟩ := List.mem_map.mp h'
  obtain ⟨list, op, rev, src, hx, hd⟩ := exec_registerArith_some s k r hr
  exact ⟨list, op, rev, _, src, _, hx, hd⟩

/-- Settles O59. -/
theorem specialOperandsOfArithmetic : Obligations.SpecialOperandsOfArithmetic := by
  refine ⟨fun list cw k op rev dst src h => arith_denormal h, fun s k i hi h0 hk hm hden hn0 hnk => ?_, ?_⟩
  · obtain ⟨list, op, rev, d, src, pop, hx, hd⟩ := exec_registerArith_any s k hi
    obtain ⟨hdf, hsf, hden', hnd, hns⟩ : s.isEmpty d = false ∧ s.isEmpty src = false ∧
        ((classOf (s.num d)).denormalOperand = true ∨ (classOf (s.num src)).denormalOperand = true) ∧
        classOf (s.num d) ≠ .nan ∧ classOf (s.num src) ≠ .nan := by
      rcases hd with ⟨rfl, rfl⟩ | ⟨rfl, rfl⟩
      · exact ⟨h0, hk, hden, hn0, hnk⟩
      · exact ⟨hk, h0, hden.symm, hnk, hn0⟩
    have hbefore : (arith list s.cw s.draws op rev (s.num d) (s.num src)).before = .onlyD := by
      rw [(arith_denormal hden').2 hm, decide_eq_false (not_or.mpr ⟨hnd, hns⟩)]
      rfl
    have hdel : Delivers s (exec i s) none (arith list s.cw s.draws op rev (s.num d) (s.num src)) d pop := by
      refine .of_writeResult (ea := none) (arith_classed ..) (hx.trans ?_)
      rw [State.sourceSt_full hsf]
      unfold State.basic
      rw [State.basicResult_full _ hdf, Computed.withD_false]
      rfl
    obtain ⟨t, ht, ha⟩ := hdel.2 (by
      rw [hbefore, Proceeds, show ExcSet.onlyD = { ExcSet.none with d := true } from rfl, ExcSet.unmasked_d, hm]
      simp)
    rw [hbefore, show ExcSet.onlyD.upTo s.cw.masks = .onlyD from ExcSet.upTo_d _] at ha
    exact ⟨t, ht, ha.ran, ha.stack, ha.memory⟩
  · intro list cw k dst src hd hs neg Finite Invalid
    have hfinite {r : TReal} (h : Finite r) : classOf r ≠ .nan ∧ classOf r ≠ .infinity := (FiniteReal.class h).2
    have hinf {r : TReal} (h : classOf r = .infinity) : classOf r ≠ .nan := by rw [h]; nofun
    have hneg : (signOf src ^^ signOf dst) = neg := Bool.xor_comm ..
    refine ⟨fun op rev h hh => ?_, fun op rev h hh => ?_, fun rev h => ?_, fun rev h => ?_, fun rev h1 h2 => ?_,
      fun rev h1 h2 => ?_, fun rev h1 h2 => ?_, fun rev h => ?_⟩
    · rw [arith_nan op rev hd hs (.inl h), nanOf_dst h hh]
    · rw [arith_nan op rev hd hs (.inr h), nanOf_src h hh]
    · rcases h with ⟨h1, h2⟩ | ⟨h1, h2⟩
      · have hz1 := (classOf_zero_iff.mp h1).2
        have hz2 := (classOf_zero_iff.mp h2).2
        have hx : FiniteReal (if rev then src else dst) := FiniteReal.ite (p := rev = true) (.inl h2) (.inl h1)
        have hy : FiniteReal (if rev then dst else src) := FiniteReal.ite (p := rev = true) (.inl h1) (.inl h2)
        refine (arithOrdered_finite hx hy).2.2.2.trans ?_
        rw [divFinite_by_zero (by cases rev <;> assumption), if_pos (by cases rev <;> assumption)]
        rfl
      · obtain ⟨hf, ht⟩ := arith_infinite (list := list) (cw := cw) (k := k) (op := .div) hd hs (hinf h1) (hinf h2)
          (.inl h1)
        cases rev
        · exact hf.2 (arithInfinite_div_both h1 h2)
        · exact ht.2 (arithInfinite_div_both h2 h1)
    · have hn : classOf dst ≠ .nan ∧ classOf src ≠ .nan := by
        rcases h with ⟨h1, h2⟩ | ⟨h1, h2⟩ <;> rw [h1, h2] <;> exact ⟨nofun, nofun⟩
      have hi : classOf dst = .infinity ∨ classOf src = .infinity := h.symm.imp And.left And.right
      have hz : classOf dst = .zero ∨ classOf src = .zero := h.imp And.left And.right
      obtain ⟨hf, ht⟩ := arith_infinite (list := list) (cw := cw) (k := k) (op := .mul) hd hs hn.1 hn.2 hi
      cases rev
      · exact hf.2 (arithInfinite_mul_zero hz)
      · exact ht.2 (arithInfinite_mul_zero hz.symm)
    · have hi (op : BasicOp) := arith_infinite (list := list) (cw := cw) (k := k) (op := op) hd hs (hinf h1) (hinf h2)
        (.inl h1)
      have hz1 : classOf dst ≠ .zero := by rw [h1]; nofun
      have hz2 : classOf src ≠ .zero := by rw [h2]; nofun
      have hn1 : classOf (negate dst) = .infinity := (classOf_negate dst).trans h1
      have hn2 : classOf (negate src) = .infinity := (classOf_negate src).trans h2
      have hne : neg = true ↔ signOf dst ≠ signOf src := by
        unfold neg; cases signOf dst <;> cases signOf src <;> simp
      have heq : neg = false ↔ signOf dst = signOf src := by
        unfold neg; cases signOf dst <;> cases signOf src <;> simp
      refine ⟨?_, fun h => ?_, fun h => ?_, fun hic h => ?_, fun hic h => ?_⟩
      · cases rev
        · exact (hi .mul).1.1 _ (arithInfinite_mul ⟨hz1, hz2⟩)
        · exact (hi .mul).2.1 _ ((arithInfinite_mul ⟨hz2, hz1⟩).trans (by rw [hneg]))
      · have hno : ¬ (cw.ic && decide (signOf dst = signOf src)) = true := by
          rw [Bool.and_eq_true, decide_eq_true_iff]
          rintro ⟨ha, hb⟩
          rcases h with h | h
          · rw [h] at ha; exact nomatch ha
          · exact hne.mp h hb
        cases rev
        · exact (hi .add).1.2 ((arithInfinite_add_both h1 h2).trans (if_neg hno))
        · exact (hi .add).2.2 ((arithInfinite_add_both h2 h1).trans
            (if_neg (by rwa [decide_eq_decide.mpr (eq_comm (a := signOf src))])))
      · have hno : ¬ (cw.ic && decide (signOf dst = !signOf src)) = true := by
          rw [Bool.and_eq_true, decide_eq_true_iff]
          rintro ⟨ha, hb⟩
          rcases h with h | h
          · rw [h] at ha; exact nomatch ha
          · rw [heq.mp h] at hb; exact absurd hb (by simp)
        have hno' : ¬ (cw.ic && decide (signOf src = !signOf dst)) = true := by
          rw [Bool.and_eq_true, decide_eq_true_iff] at hno ⊢
          exact fun e => hno ⟨e.1, by rw [e.2, Bool.not_not]⟩
        cases rev
        · refine (hi .sub).1.2 (arithInfinite_sub.trans ((arithInfinite_add_both h1 hn2).trans (if_neg ?_)))
          rw [signOf_negate]; exact hno
        · refine (hi .sub).2.2 (arithInfinite_sub.trans ((arithInfinite_add_both h2 hn1).trans (if_neg ?_)))
          rw [signOf_negate]; exact hno'
      · have hsign := heq.mp h
        cases rev
        · exact (hi .add).1.1 _ ((arithInfinite_add_both h1 h2).trans (if_pos (by rw [hic, hsign]; simp)))
        · refine (hi .add).2.1 _ ((arithInfinite_add_both h2 h1).trans ((if_pos (by rw [hic, hsign]; simp)).trans ?_))
          rw [eq_infOf h1, eq_infOf h2, hsign]
      · have hsign := Bool.eq_not_of_ne (hne.mp h)
        have hsign' : signOf src = !signOf dst := by rw [hsign, Bool.not_not]
        cases rev
        · exact (hi .sub).1.1 _ (arithInfinite_sub.trans ((arithInfinite_add_both h1 hn2).trans
            (if_pos (by rw [hic, signOf_negate, hsign]; simp))))
        · exact (hi .sub).2.1 _ (arithInfinite_sub.trans ((arithInfinite_add_both h2 hn1).trans
            (if_pos (by rw [hic, signOf_negate, hsign']; simp))))
    · obtain ⟨hns, his⟩ := hfinite h2
      have hi (op : BasicOp) := arith_infinite (list := list) (cw := cw) (k := k) (op := op) hd hs (hinf h1) hns (.inl h1)
      have hz1 : classOf dst ≠ .zero := by rw [h1]; nofun
      have hn1 : classOf (negate dst) = .infinity := (classOf_negate dst).trans h1
      refine ⟨?_, ?_, fun hn => ?_, ?_⟩
      · cases rev
        · exact (hi .add).1.1 _ (arithInfinite_add_left h1 his)
        · exact (hi .add).2.1 _ (arithInfinite_add_right his)
      · cases rev
        · refine (hi .sub).1.1 _ (arithInfinite_sub.trans ((arithInfinite_add_left h1 ?_).trans ?_))
          · rwa [classOf_negate]
          · rw [Bool.xor_false, ← eq_infOf h1]
        · refine (hi .sub).2.1 _ (arithInfinite_sub.trans ((arithInfinite_add_right his).trans ?_))
          rw [Bool.xor_true, ← signOf_negate, ← eq_infOf hn1]
      · have hz2 : classOf src ≠ .zero := by rw [hn]; nofun
        cases rev
        · exact (hi .mul).1.1 _ (arithInfinite_mul ⟨hz1, hz2⟩)
        · exact (hi .mul).2.1 _ ((arithInfinite_mul ⟨hz2, hz1⟩).trans (by rw [hneg]))
      · cases rev
        · exact (hi .div).1.1 _ (arithInfinite_div_left h1 his)
        · exact (hi .div).2.1 _ ((arithInfinite_div_right his).trans (by rw [hneg]; rfl))
    · obtain ⟨hnd, hid⟩ := hfinite h1
      have hi (op : BasicOp) := arith_infinite (list := list) (cw := cw) (k := k) (op := op) hd hs hnd (hinf h2) (.inr h2)
      have hz2 : classOf src ≠ .zero := by rw [h2]; nofun
      have hn2 : classOf (negate src) = .infinity := (classOf_negate src).trans h2
      refine ⟨?_, ?_, fun hn => ?_, ?_⟩
      · cases rev
        · exact (hi .add).1.1 _ (arithInfinite_add_right hid)
        · exact (hi .add).2.1 _ (arithInfinite_add_left h2 hid)
      · cases rev
        · refine (hi .sub).1.1 _ (arithInfinite_sub.trans ((arithInfinite_add_right hid).trans ?_))
          rw [Bool.not_false, Bool.xor_true, ← signOf_negate, ← eq_infOf hn2]
        · refine (hi .sub).2.1 _ (arithInfinite_sub.trans ((arithInfinite_add_left h2 ?_).trans ?_))
          · rwa [classOf_negate]
          · rw [Bool.not_true, Bool.xor_false, ← eq_infOf h2]
      · have hz1 : classOf dst ≠ .zero := by rw [hn]; nofun
        cases rev
        · exact (hi .mul).1.1 _ (arithInfinite_mul ⟨hz1, hz2⟩)
        · exact (hi .mul).2.1 _ ((arithInfinite_mul ⟨hz2, hz1⟩).trans (by rw [hneg]))
      · cases rev
        · exact (hi .div).1.1 _ ((arithInfinite_div_right hid).trans rfl)
        · exact (hi .div).2.1 _ ((arithInfinite_div_left h2 hid).trans (by rw [hneg]; rfl))
    · rcases h with ⟨rfl, h1, h2⟩ | ⟨rfl, h1, h2⟩
      · refine (arithOrdered_finite (.inr h1) (.inl h2)).2.2.2.trans ?_
        rw [divFinite_by_zero (classOf_zero_iff.mp h2).2, if_neg (sigOf_pos_of_normal h1).ne']
      · refine (arithOrdered_finite (.inr h2) (.inl h1)).2.2.2.trans ?_
        rw [divFinite_by_zero (classOf_zero_iff.mp h1).2, if_neg (sigOf_pos_of_normal h2).ne', hneg]

/-! ### The order of two numbers -/

/-- The order of two integers, said by the three outcomes. -/
theorem orderInt_iff (x y : ℤ) : (orderInt x y = .greater ↔ y < x) ∧ (orderInt x y = .less ↔ x < y) ∧
    (orderInt x y = .equal ↔ x = y) := by
  unfold orderInt
  rcases lt_trichotomy x y with h | h | h
  · rw [if_neg (not_lt.mpr h.le), if_pos h]
    simp [h, h.le, h.ne]
  · subst h
    simp
  · rw [if_pos h]
    simp [h, h.le, h.ne']

/-- Two finite values in a common unit are ordered as they are. -/
theorem scaled_lt_iff (a b : Val) :
    (a.scaled (min a.e b.e) < b.scaled (min a.e b.e) ↔ a.value < b.value) ∧
    (a.scaled (min a.e b.e) = b.scaled (min a.e b.e) ↔ a.value = b.value) := by
  have hu := two_zpow_pos (min a.e b.e)
  rw [← Val.scaled_value (min_le_left a.e b.e), ← Val.scaled_value (min_le_right a.e b.e),
    mul_lt_mul_iff_left₀ hu, mul_left_inj' hu.ne', Int.cast_lt, Int.cast_inj]
  exact ⟨Iff.rfl, Iff.rfl⟩

theorem neverOrdered_iff (cw : Control) (a b : TReal) : neverOrdered cw a b = true ↔
    classOf a = .nan ∨ classOf b = .nan ∨ ((classOf a = .infinity ∨ classOf b = .infinity) ∧ cw.ic = false) :=
  decide_eq_true_iff

/-- Neither an infinity nor a NAN: the values decide. -/
theorem compareReal_finite {cw : Control} {a b : TReal} (ha : FiniteReal a) (hb : FiniteReal b) :
    compareReal cw a b = orderInt ((valOf a).scaled (min (valOf a).e (valOf b).e))
      ((valOf b).scaled (min (valOf a).e (valOf b).e)) := by
  obtain ⟨ha1, ha2, ha3⟩ := ha.class
  obtain ⟨hb1, hb2, hb3⟩ := hb.class
  have hn : ¬ neverOrdered cw a b = true := by
    rw [neverOrdered_iff]
    rintro (h | h | ⟨h | h, -⟩)
    · exact ha2 h
    · exact hb2 h
    · exact ha3 h
    · exact hb3 h
  unfold compareReal
  rw [if_neg hn, ha1, hb1, if_neg (by simp), if_neg (not_or.mpr ⟨ha3, hb3⟩)]

/-- An infinity under affine control: the ranks decide. -/
theorem compareReal_infinite {cw : Control} {a b : TReal} (hic : cw.ic = true)
    (ha : classOf a = .infinity ∨ FiniteReal a) (hb : classOf b = .infinity ∨ FiniteReal b)
    (h : classOf a = .infinity ∨ classOf b = .infinity) :
    compareReal cw a b = orderInt (infinityRank a) (infinityRank b) := by
  have hcore {r : TReal} (hr : classOf r = .infinity ∨ FiniteReal r) :
      (classOf r).extended = false ∧ classOf r ≠ .nan := by
    rcases hr with hr | hr
    · rw [hr]; exact ⟨rfl, nofun⟩
    · exact ⟨hr.class.1, hr.class.2.1⟩
  have hn : ¬ neverOrdered cw a b = true := by
    rw [neverOrdered_iff, hic]
    rintro (h | h | ⟨-, h⟩)
    · exact (hcore ha).2 h
    · exact (hcore hb).2 h
    · exact nomatch h
  unfold compareReal
  rw [if_neg hn, (hcore ha).1, (hcore hb).1, if_neg (by simp), if_pos h]

theorem infinityRank_infinity {r : TReal} (h : classOf r = .infinity) :
    infinityRank r = if signOf r then -1 else 1 := if_pos h

theorem infinityRank_finite {r : TReal} (h : FiniteReal r) : infinityRank r = 0 := if_neg h.class.2.2

/-- A denormal operand, in memory or in a register, beside no NAN and no infinity (R227; log 23). -/
theorem compareOutcome_denormal {s : State} {src : Source} {b : TReal} (he : s.isEmpty 0 = false)
    (hv : src.value = some b)
    (hd : src.d = true ∨ (classOf (s.num 0)).denormalOperand = true ∨ (classOf b).denormalOperand = true)
    (hna : classOf (s.num 0) ≠ .nan) (hnb : classOf b ≠ .nan) (hia : classOf (s.num 0) ≠ .infinity)
    (hib : classOf b ≠ .infinity) :
    (s.compareOutcome src).2.d = true ∧ (s.compareOutcome src).2.z = false ∧
    (s.cw.masks.d = false → (s.compareOutcome src).2 = .onlyD) := by
  have hn : neverOrdered s.cw (s.num 0) b = false := by
    rw [← Bool.not_eq_true, neverOrdered_iff]
    rintro (h | h | ⟨h | h, -⟩)
    · exact hna h
    · exact hnb h
    · exact hia h
    · exact hib h
  have hor : ∀ x : Bool, (src.d || (classOf (s.num 0)).denormalOperand || (classOf b).denormalOperand || x) = true := by
    intro x
    rcases hd with h | h | h <;> rw [h] <;> simp
  unfold State.compareOutcome
  rw [hv]
  dsimp only
  rw [he, if_neg (by simp), hor]
  refine ⟨rfl, rfl, fun hm => ?_⟩
  rw [hm, hn]
  rfl

/-- Settles O39. -/
theorem comparisonIsByValue : Obligations.ComparisonIsByValue := by
  refine ⟨?_, fun cw a b => ⟨fun ha hb => ?_, fun h => if_pos ((neverOrdered_iff cw a b).mpr h), fun hic ha hb => ?_,
    fun hic ha hb => ?_⟩⟩
  · intro s k m i ea n src pops b h hf he hv a hd hna hnb hia hib
    obtain ⟨hod, hoz, honly⟩ := compareOutcome_denormal he hv hd hna hnb hia hib
    have hx := exec_comparison s k m _ h hf
    refine ⟨fun hm => ⟨_, hx, ?_⟩, fun hm hi => ⟨_, hx, ?_⟩⟩
    · have hD := honly hm
      have ha := State.compare_abandoned (s := s) (ea.map s.ea) src pops (by
        rw [hD, Proceeds, show ExcSet.onlyD = { ExcSet.none with d := true } from rfl, ExcSet.unmasked_d, hm]
        simp)
      rw [hD, show ExcSet.onlyD.upTo s.cw.masks = .onlyD from ExcSet.upTo_d _] at ha
      exact ha
    · have hp : Proceeds s (s.compareOutcome src).2 := by
        obtain ⟨h1, h2, h3⟩ := compareOutcome_beforeClass s src
        unfold Proceeds ExcSet.unmasked
        rw [h1, h2, h3, hoz, hm, hi]
        simp
      obtain ⟨hran, hpop, -⟩ := State.compare_proceeds (ea.map s.ea) src pops hp
      refine ⟨?_, hpop⟩
      have hflag := congrArg ExcSet.d hran.flags
      exact hflag.trans ((congrArg (s.sw.ex.d || ·) hod).trans (Bool.or_true _))
  · obtain ⟨h1, h2⟩ := scaled_lt_iff (valOf a) (valOf b)
    obtain ⟨h3, -⟩ := scaled_lt_iff (valOf b) (valOf a)
    rw [min_comm] at h3
    obtain ⟨hg, hl, heq⟩ := orderInt_iff ((valOf a).scaled (min (valOf a).e (valOf b).e))
      ((valOf b).scaled (min (valOf a).e (valOf b).e))
    rw [compareReal_finite ha hb]
    exact ⟨hg.trans h3, hl.trans h1, heq.trans h2⟩
  · rw [compareReal_infinite hic (.inl ha) (.inr hb) (.inl ha), compareReal_infinite hic (.inr hb) (.inl ha) (.inr ha),
      infinityRank_infinity ha, infinityRank_finite hb]
    cases signOf a <;> exact ⟨by decide, by decide⟩
  · rw [compareReal_infinite hic (.inl ha) (.inl hb) (.inl ha), infinityRank_infinity ha, infinityRank_infinity hb]
    cases signOf a <;> cases signOf b <;> decide

end Sys2Proof.Machine
end

section
/-! SUPPORT. Integers as temporary reals, FXTRACT, and the remainder of FPREM (spec/40_numerics.md R210,
spec/42_arithmetic.md R315, R317). -/

namespace Sys2Proof.Machine

/-! ### Numbers that need no rounding -/

/-- A split number that is an integer. -/
theorem Quot.Splits.of_nat {x : Quot} {n : Nat} (h : x.Splits n) (rc : BitVec 2) (neg : Bool) :
    x.floor = n ∧ x.exact = true ∧ x.round rc neg = n := by
  have h1 : x.floor ≤ n := by exact_mod_cast h.lower
  have h2 : n < x.floor + 1 := by exact_mod_cast h.upper
  have hf : x.floor = n := by omega
  have hx : x.exact = true := h.exact.mpr (by rw [hf])
  exact ⟨hf, hx, (h.round_exact rc neg hx).trans hf⟩

/-- A significand of at most 64 bits, in the unit of its last bit. -/
theorem significant_value {n : Nat} (h : Significant n) (e : ℤ) :
    (n : ℚ) * 2 ^ e = normSig n * 2 ^ ((Nat.log2 n : ℤ) + e - 63) := by
  conv_lhs => rw [← normSig_value h]
  rw [mul_assoc, ← zpow_add₀ two_ne_zero]
  congr 2
  ring

/-- Rounding an exact number of at most 64 bits to 64 bits loses nothing. -/
theorem round_significant {n : Nat} {e : ℤ} (h : Significant n) (rc : BitVec 2) (neg : Bool) :
    (⟨n, false, e⟩ : Mag).round 64 rc neg = (normSig n, (Nat.log2 n : ℤ) + e - 63, false) := by
  have hk : (⟨n, false, e⟩ : Mag).Known 64 (n * 2 ^ e) := Mag.Known.of_exact rfl
  have ht : (⟨n, false, e⟩ : Mag).exponent - (64 : ℕ) + 1 = (Nat.log2 n : ℤ) + e - 63 := by
    unfold Mag.exponent; push_cast; ring
  have hs := hk.splits
  rw [ht, significant_value h, mul_div_cancel_right₀ _ (two_zpow_pos _).ne'] at hs
  obtain ⟨-, hx, hr⟩ := hs.of_nat rc neg
  rw [Mag.round_eq, ht, hr, hx]
  rfl

theorem log2_normSig {n : Nat} (h : 0 < n) : Nat.log2 (normSig n) = 63 :=
  log2_eq_of_bounds (normSig_bounds h).1 (normSig_bounds h).2

/-- What the delivery of an exact number of at most 64 bits leaves: nothing lost, U where it is tiny, and the exponent
moved where that is unmasked (R200, R203). -/
theorem deliver_significant {cw : Control} {k : Nat} {neg : Bool} {n : Nat} {e : ℤ} (hn : 0 < n) (h : Significant n)
    (he : -16445 ≤ e) (hmax : (Nat.log2 n : ℤ) + e ≤ 16383) :
    let d := deliver cw .p64 k neg ⟨n, false, e⟩
    d.ex = { ExcSet.none with u := decide ((Nat.log2 n : ℤ) + e < -16382) } ∧ signOf d.value = neg ∧
    |valueOf d.value| = if d.ex.u && !cw.masks.u then (n : ℚ) * 2 ^ e * 2 ^ 24576 else (n : ℚ) * 2 ^ e := by
  intro d
  have hr := round_significant (e := e) h cw.rc neg
  have hl := log2_normSig hn
  have hm := normSig_bounds hn
  by_cases ht : (Nat.log2 n : ℤ) + e < -16382
  · have hd : d = underflow cw .p64 k neg ⟨n, false, e⟩ := deliver_tiny (by decide) ht
    rw [decide_eq_true ht]
    unfold underflow at hd
    cases hu : cw.masks.u
    · rw [hu, if_neg (by simp), show Prec.p64.bits = 64 from rfl, hr] at hd
      obtain ⟨hs, hv⟩ := packWrapped_spec (neg := neg) (n := normSig n) (k := k)
        (t := (Nat.log2 n : ℤ) + e - 63 + 24576) (by omega) (significant_of_lt hm.2) (by omega) (by omega)
      rw [hd]
      refine ⟨rfl, hs, hv.trans ?_⟩
      rw [show (true && !false) = true from rfl, if_pos rfl, significant_value h, mul_assoc, ← zpow_natCast (2 : ℚ) 24576,
        ← zpow_add₀ two_ne_zero]
      rfl
    · rw [hu, if_pos rfl, if_pos rfl] at hd
      have hk : (⟨n, false, e⟩ : Mag).Known 64 (n * 2 ^ e) := Mag.Known.of_exact rfl
      obtain ⟨hsp, -, hle⟩ := denormalized_spec hk hn ht
      obtain ⟨j, hj⟩ : ∃ j : ℕ, e + 16445 = j := ⟨(e + 16445).toNat, (Int.toNat_of_nonneg (by omega)).symm⟩
      have hint : (n : ℚ) * 2 ^ e / 2 ^ (-16445 : ℤ) = ((n * 2 ^ j : ℕ) : ℚ) := by
        rw [div_eq_iff (two_zpow_pos _).ne', Nat.cast_mul, Nat.cast_pow, Nat.cast_ofNat, mul_assoc, mul_comm (2 ^ j),
          zpow_mul_pow, ← hj]
        congr 2
        ring
      rw [hint] at hsp
      obtain ⟨-, hx, hround⟩ := hsp.of_nat cw.rc neg
      have hlt := hle cw.rc neg
      rw [hround] at hlt
      obtain ⟨hs, hv, -⟩ := underflowValue_spec (neg := neg) (n := n * 2 ^ j) (by omega)
      dsimp only at hd
      rw [hx, hround] at hd
      rw [hd]
      refine ⟨rfl, hs, hv.trans ?_⟩
      rw [show (true && !true) = false from rfl, if_neg (by simp), ← hint, div_mul_cancel₀ _ (two_zpow_pos _).ne']
  · have hd : d = _ := deliver_inRange (prec := .p64) (cw := cw) (k := k) (neg := neg) (x := ⟨n, false, e⟩) (by decide)
      (not_lt.mp ht) (by rw [show Prec.p64.bits = 64 from rfl, hr]; dsimp only; omega)
    rw [show Prec.p64.bits = 64 from rfl, hr] at hd
    obtain ⟨-, hs, hv⟩ := packNorm_spec (neg := neg) (n := normSig n) (t := (Nat.log2 n : ℤ) + e - 63) (by omega)
      (significant_of_lt hm.2) (by omega) (by omega)
    rw [hd, decide_eq_false ht]
    refine ⟨rfl, hs, hv.trans ?_⟩
    rw [show (ExcSet.none.u && !cw.masks.u) = false from rfl, if_neg (by simp), significant_value h]

/-! ### Integers -/

/-- An integer of at most 64 significant bits as a temporary real: its sign, its value, and its class. -/
theorem ofInteger_spec {neg : Bool} {n : Nat} (h : Significant n) (hmax : Nat.log2 n ≤ 16383) :
    signOf (ofInteger neg n) = neg ∧ valueOf (ofInteger neg n) = signFactor neg * n ∧
    (n = 0 → classOf (ofInteger neg n) = .zero) ∧ (n ≠ 0 → classOf (ofInteger neg n) = .normal) := by
  unfold ofInteger
  by_cases hn : n = 0
  · rw [if_pos hn]
    refine ⟨signOf_zeroOf neg, ?_, fun _ => classOf_zeroOf neg, fun h0 => absurd hn h0⟩
    rw [valueOf_of_zero (classOf_zeroOf neg), hn, Nat.cast_zero, mul_zero]
  · rw [if_neg hn]
    obtain ⟨hc, hs, hv⟩ := packNorm_spec (neg := neg) (t := 0) (Nat.pos_of_ne_zero hn) h (by omega) (by omega)
    refine ⟨hs, ?_, fun h0 => absurd h0 hn, fun _ => hc⟩
    rw [valueOf_eq_abs, hs, hv, zpow_zero, mul_one]

theorem signFactor_natAbs (v : ℤ) : signFactor (decide (v < 0)) * (v.natAbs : ℚ) = v := by
  have habs : ((v.natAbs : ℕ) : ℚ) = |(v : ℚ)| := by rw [Nat.cast_natAbs, Int.cast_abs]
  rw [habs]
  by_cases h : v < 0
  · rw [decide_eq_true h, abs_of_neg (by exact_mod_cast h)]; simp [signFactor]
  · rw [decide_eq_false h, abs_of_nonneg (by exact_mod_cast not_lt.mp h)]; simp [signFactor]

/-- An integer that 64 bits hold is converted exactly (R210). -/
theorem cvtInt_spec {v : ℤ} (h : v.natAbs < 2 ^ 64) :
    valueOf (cvtInt v) = v ∧ signOf (cvtInt v) = decide (v < 0) ∧ (v ≠ 0 → classOf (cvtInt v) = .normal) ∧
    (v = 0 → classOf (cvtInt v) = .zero) := by
  have hl : Nat.log2 v.natAbs ≤ 16383 := by
    by_cases h0 : v.natAbs = 0
    · rw [h0]; decide
    · have := (Nat.log2_lt h0).mpr h
      omega
  obtain ⟨hs, hv, hz, hn⟩ := ofInteger_spec (neg := decide (v < 0)) (significant_of_lt h) hl
  exact ⟨hv.trans (signFactor_natAbs v), hs, fun h0 => hn (by omega), fun h0 => hz (by omega)⟩

/-! ### FXTRACT -/

theorem exec_fxtract {s : State} (he : s.isEmpty 0 = false) (hf : s.pushFull = false) :
    exec .fxtract s = .next ((s.begin none).attempt (xtractOf s.cw (s.num 0)).before .none fun u =>
      (u.writeSt 0 (xtractOf s.cw (s.num 0)).exponent).push (xtractOf s.cw (s.num 0)).significand) := by
  have he' : ¬ (s.begin none).isEmpty 0 = true := Bool.eq_false_iff.mp he
  have hf' : ¬ (s.begin none).pushFull = true := Bool.eq_false_iff.mp hf
  refine congrArg Host.Outcome.next ?_
  unfold State.extract
  rw [if_neg he', if_neg hf']
  rfl

/-- FXTRACT's two results where nothing abandons it. -/
theorem fxtract_gives {s : State} {x : Extracted} (hx : xtractOf s.cw (s.num 0) = x) (he : s.isEmpty 0 = false)
    (hf : s.pushFull = false) (hp : Proceeds s x.before) :
    Completes (exec .fxtract s) fun t =>
      Ran s t none x.before ∧ MemoryKept s t ∧ WroteAndPushed s t x.exponent x.significand := by
  refine ⟨_, exec_fxtract he hf, ?_⟩
  have hb := xtractOf_beforeClass s.cw (s.num 0)
  rw [hx] at hb ⊢
  have heq := State.attempt_proceeds (s.begin none) x.before .none
    (fun u => (u.writeSt 0 x.exponent).push x.significand) hb hp
  rw [ExcSet.union_none] at heq
  rw [heq]
  exact ⟨Ran.of_conclude (ea := none) ((Effect.writeSt ..).trans (Effect.push ..)) _ _, fun _ => rfl, .of_conclude ..⟩

theorem fxtract_stops {s : State} {x : Extracted} (hx : xtractOf s.cw (s.num 0) = x) (he : s.isEmpty 0 = false)
    (hf : s.pushFull = false) (hn : ¬ Proceeds s x.before) :
    Completes (exec .fxtract s) fun t => Abandoned s t none (x.before.upTo s.cw.masks) := by
  refine ⟨_, exec_fxtract he hf, ?_⟩
  have hb := xtractOf_beforeClass s.cw (s.num 0)
  rw [hx] at hb ⊢
  exact s.attemptCode_abandoned none x.before .none (s.begin none).freeCode
    (fun u => (u.writeSt 0 x.exponent).push x.significand) hb hn

theorem xtractOf_normal {cw : Control} {a : TReal} (h : classOf a = .normal) :
    xtractOf cw a = ⟨.none, cvtInt ((expOf a : Int) - 16383), pack (signOf a) 0x3FFF (sigOf a)⟩ := by
  unfold xtractOf; rw [h]

theorem xtractOf_zero {cw : Control} {a : TReal} (h : classOf a = .zero) : xtractOf cw a = ⟨.none, a, a⟩ := by
  unfold xtractOf; rw [h]

theorem xtractOf_nan {cw : Control} {a : TReal} (h : classOf a = .nan) :
    xtractOf cw a = ⟨.onlyI, indefinite, indefinite⟩ := by
  unfold xtractOf; rw [h]

/-- A denormal operand is not a NAN. -/
theorem not_nan_of_denormal {r : TReal} (h : (classOf r).denormalOperand = true) : classOf r ≠ .nan := by
  intro hn; rw [hn] at h; exact nomatch h

/-- An operation on one denormal operand, D unmasked, finds D alone. -/
theorem openBefore_onlyD {list masks : ExcSet} {a : TReal} (r : OpenResult) (h : (classOf a).denormalOperand = true)
    (hm : masks.d = false) : openBefore list masks a a r = .onlyD := by
  rw [(openBefore_denormal r (by rw [h]; rfl)).2 hm, decide_eq_false (by simpa using not_nan_of_denormal h)]
  rfl

theorem xtractOf_denormal {cw : Control} {a : TReal} (h : (classOf a).denormalOperand = true) (hm : cw.masks.d = false) :
    (xtractOf cw a).before = .onlyD := by
  unfold xtractOf
  cases hc : classOf a with
  | zero | normal | infinity | nan | pseudoSpecial => rw [hc] at h; exact nomatch h
  | denormal | pseudoDenormal | unnormal | pseudoZero => exact openBefore_onlyD _ h hm

theorem Proceeds.not_onlyD {s : State} (h : s.cw.masks.d = false) : ¬ Proceeds s .onlyD := by
  rw [Proceeds, show ExcSet.onlyD = { ExcSet.none with d := true } from rfl, ExcSet.unmasked_d, h]
  simp

theorem ExcSet.upTo_onlyD (m : ExcSet) : ExcSet.onlyD.upTo m = .onlyD := ExcSet.upTo_d m

/-- Settles O37. -/
theorem extractSplitsTheNumber : Obligations.ExtractSplitsTheNumber := by
  intro s he hf a e f Gives Stops
  refine ⟨fun h => ?_, fun h => ?_, fun h => ⟨fun hm => ?_, fun hm => ?_⟩, fun h hm => ?_⟩
  · obtain ⟨h1, h2, hsig⟩ := classOf_normal_iff.mp h
    have hlt := sigOf_lt a
    have hexp : expOf f = 0x3FFF := expOf_pack (by decide) hlt
    have hsigf : sigOf f = sigOf a := sigOf_pack (by decide) hlt
    have hsgn : signOf f = signOf a := signOf_pack (by decide) hlt
    refine ⟨fxtract_gives (xtractOf_normal h) he hf (Proceeds.none s), tagOf_number (by omega) (by omega), ?_, ?_⟩
    · exact (cvtInt_spec (by omega)).1.trans (by push_cast; ring)
    · rw [valueOf_eq, valueOf_eq f, hsgn, hsigf, unitOf, unitOf, hexp, if_neg (by omega), if_neg (by omega), mul_assoc,
        mul_assoc, ← zpow_add₀ two_ne_zero]
      congr 3
      push_cast
      ring
  · exact fxtract_gives (xtractOf_zero h) he hf (Proceeds.none s)
  · exact fxtract_gives (xtractOf_nan h) he hf (Proceeds.onlyI hm)
  · obtain ⟨t, ht, ha⟩ := fxtract_stops (xtractOf_nan h) he hf (not_proceeds_onlyI hm)
    dsimp only at ha
    rw [ExcSet.upTo_onlyI] at ha
    exact ⟨t, ht, ha.ran, ha.memory, ha.stack⟩
  · have hD := xtractOf_denormal (cw := s.cw) h hm
    obtain ⟨t, ht, ha⟩ := fxtract_stops rfl he hf (hD ▸ Proceeds.not_onlyD hm)
    rw [hD, ExcSet.upTo_onlyD] at ha
    exact ⟨t, ht, ha.ran, ha.memory, ha.stack⟩

end Sys2Proof.Machine
end

section
/-! SUPPORT. The remainder of FPREM (spec/42_arithmetic.md R315). -/

namespace Sys2Proof.Machine

/-- What a delivered remainder of magnitude `x` is: exact, with the dividend's sign, U where it is tiny. -/
def RemainderIs (cw : Control) (c : Computed) (neg : Bool) (x : ℚ) : Prop :=
  c.before = .none ∧ c.after = { ExcSet.none with u := decide (0 < x ∧ x < 2 ^ (-16382 : ℤ)) } ∧
  signOf c.value = neg ∧ |valueOf c.value| = if c.after.u && !cw.masks.u then x * 2 ^ 24576 else x

/-- A positive multiple of a power of two is below another power exactly where its leading bit is. -/
theorem mul_zpow_lt_iff {n : Nat} {e m : ℤ} (hn : 0 < n) :
    (n : ℚ) * 2 ^ e < 2 ^ m ↔ (Nat.log2 n : ℤ) + e < m := by
  obtain ⟨h1, h2⟩ := (Mag.Known.of_exact (x := ⟨n, false, e⟩) (p := 0) rfl).brackets.binade hn
  change (2 : ℚ) ^ ((Nat.log2 n : ℤ) + e) ≤ _ at h1
  change _ < (2 : ℚ) ^ ((Nat.log2 n : ℤ) + e + 1) at h2
  constructor
  · intro h
    exact (zpow_lt_zpow_iff_right₀ one_lt_two).mp (h1.trans_lt h)
  · intro h
    exact h2.trans_le (zpow_le_zpow_right₀ one_le_two (by omega))

theorem remainderOf_spec {cw : Control} {k : Nat} {neg : Bool} {r : Nat} {e : ℤ} (h : Significant r)
    (he : -16445 ≤ e) (hmax : 0 < r → (Nat.log2 r : ℤ) + e ≤ 16383) :
    RemainderIs cw (remainderOf cw k neg r e) neg (r * 2 ^ e) := by
  unfold remainderOf
  by_cases hr : r = 0
  · rw [if_pos hr, hr]
    refine ⟨rfl, ?_, signOf_zeroOf neg, ?_⟩
    · rw [decide_eq_false (by simp)]; rfl
    · rw [show (Computed.exact (zeroOf neg)).value = zeroOf neg from rfl, valueOf_of_zero (classOf_zeroOf neg)]
      simp
  · have hpos := Nat.pos_of_ne_zero hr
    rw [if_neg hr]
    obtain ⟨hex, hs, hv⟩ := deliver_significant (cw := cw) (k := k) (neg := neg) hpos h he (hmax hpos)
    refine ⟨rfl, hex.trans ?_, hs, hv⟩
    have hgt : (0 : ℚ) < r * 2 ^ e := mul_pos (by exact_mod_cast hpos) (two_zpow_pos e)
    rw [decide_eq_decide.mpr (Iff.trans (mul_zpow_lt_iff (m := -16382) hpos).symm (and_iff_right hgt).symm)]

/-! ### The magnitudes in a common unit -/

/-- The significand of a number as a multiple of a finer unit. -/
theorem shifted_value {r : TReal} {e : ℤ} (h : e ≤ unitOf r) :
    ((sigOf r <<< (unitOf r - e).toNat : ℕ) : ℚ) * 2 ^ e = |valueOf r| := by
  rw [abs_valueOf, Nat.shiftLeft_eq, Nat.cast_mul, Nat.cast_pow, Nat.cast_ofNat, mul_assoc,
    mul_comm (2 ^ (unitOf r - e).toNat), zpow_mul_pow, Int.toNat_of_nonneg (by omega), add_sub_cancel]

theorem unitOf_normal {r : TReal} (h : classOf r = .normal) : unitOf r = (expOf r : ℤ) - 16446 := by
  obtain ⟨h1, -, -⟩ := classOf_normal_iff.mp h
  unfold unitOf
  rw [if_neg (by omega)]

section TwoNormals
variable {a b : TReal}

/-- The common unit of two normal numbers is no finer than that of the least one. -/
theorem common_unit_ge (ha : classOf a = .normal) (hb : classOf b = .normal) : -16445 ≤ min (unitOf a) (unitOf b) := by
  obtain ⟨h1, -, -⟩ := classOf_normal_iff.mp ha
  obtain ⟨h2, -, -⟩ := classOf_normal_iff.mp hb
  rw [unitOf_normal ha, unitOf_normal hb]
  omega

/-- The dividend and the modulus, as integers in the common unit. -/
def dividendIn (a b : TReal) : Nat := sigOf a <<< (unitOf a - min (unitOf a) (unitOf b)).toNat
/-- The modulus in the common unit. -/
def modulusIn (a b : TReal) : Nat := sigOf b <<< (unitOf b - min (unitOf a) (unitOf b)).toNat

theorem dividendIn_value : (dividendIn a b : ℚ) * 2 ^ min (unitOf a) (unitOf b) = |valueOf a| :=
  shifted_value (min_le_left _ _)

theorem modulusIn_value : (modulusIn a b : ℚ) * 2 ^ min (unitOf a) (unitOf b) = |valueOf b| :=
  shifted_value (min_le_right _ _)

theorem modulusIn_pos (hb : classOf b = .normal) : 0 < modulusIn a b := by
  unfold modulusIn
  rw [Nat.shiftLeft_eq]
  exact Nat.mul_pos (sigOf_pos_of_normal hb) (by positivity)

theorem dividendIn_pos (ha : classOf a = .normal) : 0 < dividendIn a b := by
  unfold dividendIn
  rw [Nat.shiftLeft_eq]
  exact Nat.mul_pos (sigOf_pos_of_normal ha) (by positivity)

/-- One of the two is in its own unit, so that the remainder fits 64 bits. -/
theorem mod_fits (hb : classOf b = .normal) : dividendIn a b % modulusIn a b < 2 ^ 64 := by
  rcases le_total (unitOf a) (unitOf b) with h | h
  · have hd : dividendIn a b = sigOf a := by
      unfold dividendIn
      rw [min_eq_left h, sub_self]
      rfl
    exact (Nat.mod_le _ _).trans_lt (hd ▸ sigOf_lt a)
  · have hm : modulusIn a b = sigOf b := by
      unfold modulusIn
      rw [min_eq_right h, sub_self]
      rfl
    exact (Nat.mod_lt _ (modulusIn_pos hb)).trans (hm ▸ sigOf_lt b)

/-- The whole quotient. -/
theorem floor_ratio (a b : TReal) : ⌊|valueOf a| / |valueOf b|⌋ = ((dividendIn a b / modulusIn a b : ℕ) : ℤ) := by
  rw [← dividendIn_value (a := a) (b := b), ← modulusIn_value (a := a) (b := b),
    mul_div_mul_right _ _ (two_zpow_pos _).ne']
  exact Rat.floor_natCast_div_natCast _ _

/-- Nothing taken off exceeds the dividend, so that the leading bit of what is left is at most its own. -/
theorem left_in_range (ha : classOf a = .normal) {r : Nat} (hr : r ≤ dividendIn a b) (hpos : 0 < r) :
    (Nat.log2 r : ℤ) + min (unitOf a) (unitOf b) ≤ 16383 := by
  obtain ⟨-, h2, -⟩ := classOf_normal_iff.mp ha
  have hlt := sigOf_lt a
  have hv : (r : ℚ) * 2 ^ min (unitOf a) (unitOf b) < 2 ^ ((expOf a : ℤ) - 16382) := by
    refine (mul_le_mul_of_nonneg_right (Nat.cast_le.mpr hr) (two_zpow_pos _).le).trans_lt ?_
    rw [dividendIn_value, abs_valueOf, unitOf_normal ha, show (expOf a : ℤ) - 16382 = (expOf a : ℤ) - 16446 + (64 : ℕ) by
      push_cast; ring, ← zpow_mul_pow, mul_comm]
    exact mul_lt_mul_of_pos_left (by exact_mod_cast hlt) (two_zpow_pos _)
  have := (mul_zpow_lt_iff hpos).mp hv
  omega

/-- Taking the modulus off leaves the difference of the values. -/
theorem taken_off {n : Nat} (h : n * modulusIn a b ≤ dividendIn a b) :
    ((dividendIn a b - n * modulusIn a b : ℕ) : ℚ) * 2 ^ min (unitOf a) (unitOf b) =
      |valueOf a| - n * |valueOf b| := by
  rw [Nat.cast_sub h, sub_mul, dividendIn_value, Nat.cast_mul, mul_assoc, modulusIn_value]

end TwoNormals

theorem fits64_iff (n : Nat) : fits64 n = true ↔ Significant n := by
  unfold fits64 Significant
  rw [decide_eq_true_iff, Nat.dvd_iff_mod_eq_zero]

/-- An incomplete reduction takes the modulus off at least once, at most the whole quotient, and leaves a number of 64
bits (D18). -/
theorem partialQuotient_spec {a b : TReal} (hb : classOf b = .normal) (hq : 1 ≤ dividendIn a b / modulusIn a b) :
    1 ≤ partialQuotient a b (dividendIn a b) (modulusIn a b) ∧
    partialQuotient a b (dividendIn a b) (modulusIn a b) ≤ dividendIn a b / modulusIn a b ∧
    Significant (dividendIn a b - partialQuotient a b (dividendIn a b) (modulusIn a b) * modulusIn a b) := by
  unfold partialQuotient
  dsimp only
  split
  · next h => exact ⟨h.1, h.2.1, (fits64_iff _).mp h.2.2⟩
  · refine ⟨hq, le_rfl, significant_of_lt ?_⟩
    have hm := Nat.div_add_mod (dividendIn a b) (modulusIn a b)
    rw [mul_comm] at hm
    have := mod_fits (a := a) hb
    omega

/-- The reduction of two normal numbers. -/
theorem premOf_normal {cw : Control} {k : Nat} {a b : TReal} (ha : classOf a = .normal) (hb : classOf b = .normal) :
    premOf cw k a b = if (valOf a).exponent - (valOf b).exponent < 64
      then ⟨remainderOf cw k (signOf a) (dividendIn a b % modulusIn a b) (min (unitOf a) (unitOf b)), false,
        BitVec.ofNat 3 (dividendIn a b / modulusIn a b)⟩
      else ⟨remainderOf cw k (signOf a) (dividendIn a b - partialQuotient a b (dividendIn a b) (modulusIn a b) *
        modulusIn a b) (min (unitOf a) (unitOf b)), true, (Config.freeCode k).extractLsb' 0 3⟩ := by
  unfold premOf
  rw [ha, hb, if_neg (by decide), if_neg (by decide), if_neg (by decide), if_neg (by decide)]
  rfl

section Special
variable {cw : Control} {k : Nat} {a b : TReal}

theorem premOf_extended (h : ((classOf a).extended || (classOf b).extended) = true) :
    (premOf cw k a b).result = openComputed .prem (excList true true false false true false) cw a b := by
  unfold premOf
  rw [if_pos h]

theorem premOf_nan (ha : (classOf a).extended = false) (hb : (classOf b).extended = false)
    (h : classOf a = .nan ∨ classOf b = .nan) : (premOf cw k a b).result = .invalid (nanOf a b) := by
  unfold premOf
  rw [ha, hb, if_neg (by simp), if_pos h]

theorem premOf_invalid (ha : (classOf a).extended = false) (hb : (classOf b).extended = false)
    (hn : ¬ (classOf a = .nan ∨ classOf b = .nan)) (h : classOf a = .infinity ∨ classOf b = .zero) :
    (premOf cw k a b).result = .invalid indefinite := by
  unfold premOf
  rw [ha, hb, if_neg (by simp), if_neg hn, if_pos h]

theorem premOf_unchanged (ha : (classOf a).extended = false) (hb : (classOf b).extended = false)
    (hn : ¬ (classOf a = .nan ∨ classOf b = .nan)) (hi : ¬ (classOf a = .infinity ∨ classOf b = .zero))
    (h : classOf b = .infinity ∨ classOf a = .zero) : premOf cw k a b = ⟨.exact a, false, 0⟩ := by
  unfold premOf
  rw [ha, hb, if_neg (by simp), if_neg hn, if_neg hi, if_pos h]

end Special

/-- Settles O36. -/
theorem remainderIsExact : Obligations.RemainderIsExact := by
  intro cw k a b r q Exactly
  refine ⟨fun ha hb => ?_, fun ha hb => ⟨fun h => premOf_nan ha hb h, fun hna hnb h => ?_, fun hfa h => ?_⟩,
    fun h => ?_⟩
  · have hr := premOf_normal (cw := cw) (k := k) ha hb
    have hpos := modulusIn_pos (a := a) hb
    have hunit := common_unit_ge ha hb
    have hq : q = ((dividendIn a b / modulusIn a b : ℕ) : ℤ) := floor_ratio a b
    refine ⟨fun hd => ?_, fun hd => ?_⟩
    · rw [if_pos hd] at hr
      have hmod : dividendIn a b % modulusIn a b =
          dividendIn a b - dividendIn a b / modulusIn a b * modulusIn a b := by
        rw [mul_comm]; exact Nat.mod_eq_sub_mul_div
      have hval : ((dividendIn a b % modulusIn a b : ℕ) : ℚ) * 2 ^ min (unitOf a) (unitOf b) =
          |valueOf a| - q * |valueOf b| := by
        rw [hmod, taken_off (Nat.div_mul_le_self _ _), hq, Int.cast_natCast]
      have hlt : |valueOf a| - q * |valueOf b| < |valueOf b| := by
        rw [← hval, ← modulusIn_value (a := a) (b := b)]
        exact mul_lt_mul_of_pos_right (Nat.cast_lt.mpr (Nat.mod_lt _ hpos)) (two_zpow_pos _)
      have hrem := remainderOf_spec (cw := cw) (k := k) (neg := signOf a) (significant_of_lt (mod_fits (a := a) hb)) hunit
        (left_in_range ha (Nat.mod_le _ _))
      rw [hval] at hrem
      have hres : r.result = remainderOf cw k (signOf a) (dividendIn a b % modulusIn a b) (min (unitOf a) (unitOf b)) :=
        congrArg Remainder.result hr
      refine ⟨congrArg Remainder.partialResult hr, (congrArg Remainder.quotient hr).trans ?_, hlt, ?_⟩
      · rw [hq, BitVec.ofInt_natCast]
      · unfold Exactly
        rw [hres]
        exact hrem
    · rw [if_neg (not_lt.mpr hd)] at hr
      have hge : 1 ≤ dividendIn a b / modulusIn a b := by
        rw [Nat.one_le_div_iff hpos]
        rw [exponent_valOf ha, exponent_valOf hb] at hd
        have hle : unitOf b ≤ unitOf a := by rw [unitOf_normal ha, unitOf_normal hb]; omega
        unfold modulusIn dividendIn
        rw [min_eq_right hle, sub_self, Nat.shiftLeft_eq, Nat.shiftLeft_eq]
        have h64 : 64 ≤ (unitOf a - unitOf b).toNat := by rw [unitOf_normal ha, unitOf_normal hb]; omega
        calc sigOf b * 2 ^ (0 : ℤ).toNat = sigOf b := by simp
          _ ≤ 1 * 2 ^ 64 := by rw [one_mul]; exact (sigOf_lt b).le
          _ ≤ sigOf a * 2 ^ (unitOf a - unitOf b).toNat :=
            Nat.mul_le_mul (sigOf_pos_of_normal ha) (Nat.pow_le_pow_right (by decide) h64)
      obtain ⟨h1, h2, h3⟩ := partialQuotient_spec hb hge
      have hle : partialQuotient a b (dividendIn a b) (modulusIn a b) * modulusIn a b ≤ dividendIn a b :=
        (Nat.mul_le_mul_right _ h2).trans (Nat.div_mul_le_self _ _)
      have hrem := remainderOf_spec (cw := cw) (k := k) (neg := signOf a) h3 hunit
        (left_in_range ha (Nat.sub_le _ _))
      rw [taken_off hle] at hrem
      have hres : r.result = remainderOf cw k (signOf a) (dividendIn a b - partialQuotient a b (dividendIn a b)
          (modulusIn a b) * modulusIn a b) (min (unitOf a) (unitOf b)) := congrArg Remainder.result hr
      refine ⟨congrArg Remainder.partialResult hr, partialQuotient a b (dividendIn a b) (modulusIn a b),
        by exact_mod_cast h1, by rw [hq]; exact_mod_cast h2, ?_⟩
      unfold Exactly
      rw [hres]
      exact hrem
  · exact premOf_invalid ha hb (not_or.mpr ⟨hna, hnb⟩) h
  · have hfin := FiniteReal.class (r := a) hfa
    have hnb : classOf b ≠ .nan ∧ classOf b ≠ .zero := by
      rcases h with h | ⟨-, h⟩ <;> rw [h] <;> exact ⟨nofun, nofun⟩
    exact premOf_unchanged ha hb (not_or.mpr ⟨hfin.2.1, hnb.1⟩) (not_or.mpr ⟨hfin.2.2, hnb.2⟩) (h.imp_right And.left)
  · have hden : ((classOf a).denormalOperand || (classOf b).denormalOperand) = true := Bool.or_eq_true_iff.mpr h
    have hext : ((classOf a).extended || (classOf b).extended) = true :=
      Bool.or_eq_true_iff.mpr (h.imp Class.extended_of_denormalOperand Class.extended_of_denormalOperand)
    have hres : r.result = _ := premOf_extended hext
    rw [hres]
    obtain ⟨h1, h2⟩ := openBefore_denormal (list := excList true true false false true false) (masks := cw.masks)
      (Config.openArith .prem a b cw.toBits) hden
    exact ⟨h1 rfl, h2⟩

end Sys2Proof.Machine
end

section
/-! SUPPORT. FSQRT, FSCALE and FRNDINT (spec/42_arithmetic.md R311, R312, R316). -/

namespace Sys2Proof.Machine

/-! ### The three instructions -/

theorem exec_onTop {s : State} {i : Instr} {c : Computed}
    (h : (i, c) ∈ [(.fsqrt, sqrtOf s.cw s.draws (s.num 0)),
      (.fscale, scaleOf s.cw s.draws (s.num 0) (s.num 1)), (.frndint, rndintOf s.cw (s.num 0))])
    (h0 : s.isEmpty 0 = false) (h1 : i = .fscale → s.isEmpty 1 = false) :
    exec i s = .next ((s.begin none).writeResult c 0 false) ∧ c.Classed := by
  simp only [List.mem_cons, List.not_mem_nil, or_false, Prod.mk.injEq] at h
  rcases h with ⟨rfl, rfl⟩ | ⟨rfl, rfl⟩ | ⟨rfl, rfl⟩
  · refine ⟨?_, sqrtOf_classed ..⟩
    change Host.Outcome.next ((s.begin none).unary (s.isEmpty 0) _) = _
    rw [h0]; rfl
  · refine ⟨?_, scaleOf_classed ..⟩
    change Host.Outcome.next ((s.begin none).unary (s.isEmpty 0 || s.isEmpty 1) _) = _
    rw [h0, h1 rfl]; rfl
  · refine ⟨?_, rndintOf_classed ..⟩
    change Host.Outcome.next ((s.begin none).unary (s.isEmpty 0) _) = _
    rw [h0]; rfl

/-! ### The square root -/

theorem sqrtOf_flags (cw : Control) (k : Nat) (a : TReal) :
    (sqrtOf cw k a).after.o = false ∧ (sqrtOf cw k a).after.u = false := by
  unfold sqrtOf
  split
  · unfold openComputed openAfter
    dsimp only [ExcSet.inter, excList]
    rw [Bool.and_false, Bool.and_false]
    exact ⟨rfl, rfl⟩
  · split
    · exact ⟨rfl, rfl⟩
    · exact ⟨rfl, rfl⟩
    · split <;> exact ⟨rfl, rfl⟩
    · split <;> exact ⟨rfl, rfl⟩

/-- An operation on one operand of which D is unmasked finds D alone. -/
theorem sqrtOf_denormal {cw : Control} {a : TReal} (k : Nat) (h : (classOf a).denormalOperand = true)
    (hm : cw.masks.d = false) : (sqrtOf cw k a).before = .onlyD := by
  unfold sqrtOf
  rw [if_pos (Class.extended_of_denormalOperand h)]
  exact openBefore_onlyD _ h hm

/-! ### Rounding to an integer -/

theorem rndintOf_denormal {cw : Control} {a : TReal} (h : (classOf a).denormalOperand = true)
    (hm : cw.masks.d = false) : (rndintOf cw a).before = .onlyD := by
  unfold rndintOf
  cases hc : classOf a with
  | zero | normal | infinity | nan | pseudoSpecial => rw [hc] at h; exact nomatch h
  | denormal | pseudoDenormal | unnormal | pseudoZero => exact openBefore_onlyD _ h hm

/-- The magnitude of a register, split at the integer. -/
theorem intQuot_splits (a : TReal) : ((Mag.ofVal (valOf a)).quot 0).Splits |valueOf a| := by
  have hb : (Mag.ofVal (valOf a)).Brackets |valueOf a| := by
    rw [abs_valueOf]
    exact (Mag.Known.of_exact (x := Mag.ofVal (valOf a)) (p := 0) rfl).brackets
  have h := Mag.quot_splits (t := 0) hb (fun hs => nomatch hs)
  rwa [zpow_zero, div_one] at h

/-- A normal number rounded to an integer has at most 64 significant bits and is in range. -/
theorem intRound_fits {a : TReal} (h : classOf a = .normal) (rc : BitVec 2) (neg : Bool) :
    Significant (((Mag.ofVal (valOf a)).quot 0).round rc neg) ∧
    Nat.log2 (((Mag.ofVal (valOf a)).quot 0).round rc neg) ≤ 16383 := by
  obtain ⟨-, hexp, hsig⟩ := classOf_normal_iff.mp h
  have hlt := sigOf_lt a
  have hu := unitOf_normal h
  have hsp := intQuot_splits a
  rcases lt_or_ge (unitOf a) 0 with hneg | hpos
  · have hf : ((Mag.ofVal (valOf a)).quot 0).floor < 2 ^ 64 := by
      have h1 : |valueOf a| < ((2 ^ 64 : ℕ) : ℚ) := by
        rw [abs_valueOf, Nat.cast_pow]
        calc (sigOf a : ℚ) * 2 ^ unitOf a ≤ sigOf a * 1 :=
              mul_le_mul_of_nonneg_left (zpow_le_one_of_nonpos₀ one_le_two hneg.le) (Nat.cast_nonneg _)
          _ < _ := by rw [mul_one]; exact_mod_cast hlt
      exact_mod_cast hsp.lower.trans_lt h1
    have hle : ((Mag.ofVal (valOf a)).quot 0).round rc neg ≤ 2 ^ 64 := by
      rcases ((Mag.ofVal (valOf a)).quot 0).round_or rc neg with he | he <;> rw [he] <;> omega
    refine ⟨significant_of_le hle, ?_⟩
    rcases Nat.eq_zero_or_pos (((Mag.ofVal (valOf a)).quot 0).round rc neg) with h0 | h0
    · rw [h0]; decide
    · have := (Nat.log2_lt h0.ne').mpr (hle.trans_lt (by decide : 2 ^ 64 < 2 ^ 65))
      omega
  · obtain ⟨j, hj⟩ : ∃ j : ℕ, unitOf a = j := ⟨_, (Int.toNat_of_nonneg hpos).symm⟩
    have hv : |valueOf a| = ((sigOf a * 2 ^ j : ℕ) : ℚ) := by
      rw [abs_valueOf, hj, zpow_natCast, Nat.cast_mul, Nat.cast_pow, Nat.cast_ofNat]
    rw [hv] at hsp
    rw [(hsp.of_nat rc neg).2.2]
    have hl : Nat.log2 (sigOf a * 2 ^ j) = 63 + j := by
      refine log2_eq_of_bounds ?_ ?_
      · rw [pow_add]; exact Nat.mul_le_mul_right _ hsig
      · rw [show 63 + j + 1 = 64 + j by ring, pow_add]
        exact Nat.mul_lt_mul_of_pos_right hlt (by positivity)
    unfold Significant
    rw [hl, show 63 + j - 63 = j by omega]
    exact ⟨Nat.dvd_mul_left _ _, by omega⟩

/-- What FRNDINT makes of a zero or a normal number. -/
theorem rndintOf_finite {cw : Control} {a : TReal} (h : FiniteReal a) :
    ∃ n : ℤ, RoundsTo cw.rc (valueOf a) n ∧ (rndintOf cw a).before = .none ∧
      (rndintOf cw a).after = { ExcSet.none with p := decide ((n : ℚ) ≠ valueOf a) } ∧
      valueOf (rndintOf cw a).value = n ∧ signOf (rndintOf cw a).value = signOf a ∧
      FiniteReal (rndintOf cw a).value := by
  have hsp := intQuot_splits a
  have hto := hsp.roundsTo cw.rc (signOf a) (abs_nonneg _)
  rw [← valueOf_eq_abs] at hto
  have hcast (n : ℕ) : ((if signOf a then -(n : ℤ) else n : ℤ) : ℚ) = signFactor (signOf a) * n := by
    cases signOf a <;> simp [signFactor]
  refine ⟨_, hto, ?_⟩
  rw [hcast]
  rcases h with h | h
  · have hr : rndintOf cw a = .exact a := by unfold rndintOf; rw [h]
    have hz := valueOf_of_zero h
    rw [hz, abs_zero] at hsp
    have h0 : ((Mag.ofVal (valOf a)).quot 0).round cw.rc (signOf a) = 0 := by
      have hsp' : ((Mag.ofVal (valOf a)).quot 0).Splits ((0 : ℕ) : ℚ) := by rw [Nat.cast_zero]; exact hsp
      exact (hsp'.of_nat cw.rc (signOf a)).2.2
    rw [hr, h0, Nat.cast_zero, mul_zero, hz]
    exact ⟨rfl, rfl, hz, rfl, .inl h⟩
  · have hr : rndintOf cw a = ⟨.none, { ExcSet.none with p := !((Mag.ofVal (valOf a)).quot 0).exact },
        ofInteger (signOf a) (((Mag.ofVal (valOf a)).quot 0).round cw.rc (signOf a))⟩ := by
      unfold rndintOf; rw [h]
    obtain ⟨hsig, hlog⟩ := intRound_fits h cw.rc (signOf a)
    obtain ⟨hs, hv, hz, hn⟩ := ofInteger_spec (neg := signOf a) hsig hlog
    rw [hr]
    refine ⟨rfl, ?_, hv, hs, ?_⟩
    · have hp : (!((Mag.ofVal (valOf a)).quot 0).exact) =
          decide (signFactor (signOf a) * (((Mag.ofVal (valOf a)).quot 0).round cw.rc (signOf a) : ℚ) ≠ valueOf a) := by
        rw [Bool.eq_iff_iff, decide_eq_true_iff, Bool.not_eq_true', ← Bool.not_eq_true, hsp.exact_iff cw.rc (signOf a)]
        refine not_congr ?_
        conv_rhs => rw [valueOf_eq_abs a]
        exact (mul_right_inj' (signFactor_ne_zero _)).symm
      rw [hp]
    · by_cases h0 : ((Mag.ofVal (valOf a)).quot 0).round cw.rc (signOf a) = 0
      · exact .inl (hz h0)
      · exact .inr (hn h0)

/-! ### The scale factor -/

/-- Binade of a value that is not zero. -/
theorem exponent_bounds {x : TReal} (h : 0 < sigOf x) :
    2 ^ (valOf x).exponent ≤ |valueOf x| ∧ |valueOf x| < 2 ^ ((valOf x).exponent + 1) := by
  rw [abs_valueOf]
  exact (Mag.Known.of_exact (x := ⟨sigOf x, false, unitOf x⟩) (p := 0) rfl).brackets.binade h

/-- A value in a binade is below a power of two exactly where the binade is. -/
theorem binade_lt_iff {v : ℚ} {e m : ℤ} (h1 : 2 ^ e ≤ v) (h2 : v < 2 ^ (e + 1)) : v < 2 ^ m ↔ e < m :=
  ⟨fun h => (zpow_lt_zpow_iff_right₀ one_lt_two).mp (h1.trans_lt h),
    fun h => h2.trans_le (zpow_le_zpow_right₀ one_le_two (by omega))⟩

/-- A significand and an exponent give a power of two exactly where the significand is one. -/
theorem eq_two_zpow_iff {n : Nat} {u m : ℤ} (hn : 0 < n) :
    (n : ℚ) * 2 ^ u = 2 ^ m ↔ (Nat.log2 n : ℤ) + u = m ∧ n = 2 ^ Nat.log2 n := by
  obtain ⟨h1, h2⟩ := (Mag.Known.of_exact (x := ⟨n, false, u⟩) (p := 0) rfl).brackets.binade hn
  change (2 : ℚ) ^ ((Nat.log2 n : ℤ) + u) ≤ _ at h1
  change _ < (2 : ℚ) ^ ((Nat.log2 n : ℤ) + u + 1) at h2
  have hpow (j : ℕ) : ((2 ^ j : ℕ) : ℚ) * 2 ^ u = 2 ^ ((j : ℤ) + u) := by
    rw [Nat.cast_pow, Nat.cast_ofNat, mul_comm, zpow_mul_pow, add_comm]
  constructor
  · intro h
    dsimp only at h1 h2
    rw [h] at h1 h2
    have h3 := (zpow_le_zpow_iff_right₀ (one_lt_two (α := ℚ))).mp h1
    have h4 := (zpow_lt_zpow_iff_right₀ (one_lt_two (α := ℚ))).mp h2
    have hm : (Nat.log2 n : ℤ) + u = m := by omega
    refine ⟨hm, ?_⟩
    rw [← hm, ← hpow] at h
    exact_mod_cast mul_right_cancel₀ (two_zpow_pos u).ne' h
  · rintro ⟨hm, hs⟩
    rw [← hm, ← hpow, ← hs]

/-- A signed value lies within a bound, the lower one included, by its magnitude and sign. -/
theorem signed_range_iff {neg : Bool} {v b : ℚ} (hv : 0 ≤ v) (hb : 0 < b) :
    (-b ≤ signFactor neg * v ∧ signFactor neg * v < b) ↔ v < b ∨ v = b ∧ neg = true := by
  cases neg
  · simp only [signFactor, Bool.false_eq_true, if_false, one_mul, and_false, or_false]
    exact ⟨fun h => h.2, fun h => ⟨by linarith, h⟩⟩
  · simp only [signFactor, if_true, neg_mul, one_mul, and_true]
    rw [← le_iff_lt_or_eq]
    exact ⟨fun h => by linarith [h.1], fun h => ⟨by linarith, by linarith⟩⟩

/-- A scale factor is in range where its value is zero, or at least 1 in magnitude and within -2^15 and 2^15 (R312). -/
theorem scaleInRange_iff (x : TReal) : scaleInRange x = true ↔
    valueOf x = 0 ∨ (1 ≤ |valueOf x| ∧ -2 ^ 15 ≤ valueOf x ∧ valueOf x < 2 ^ 15) := by
  unfold scaleInRange
  dsimp only
  rw [Bool.or_eq_true, decide_eq_true_iff, valueOf_eq_zero]
  refine or_congr_right' fun hz => ?_
  have hpos := Nat.pos_of_ne_zero hz
  obtain ⟨h1, h2⟩ := exponent_bounds hpos
  have hone : 1 ≤ |valueOf x| ↔ 0 ≤ (valOf x).exponent := by
    have h := binade_lt_iff (m := 0) h1 h2
    rw [zpow_zero] at h
    exact not_lt.symm.trans ((not_congr h).trans not_lt)
  have hcast : (2 : ℚ) ^ (15 : ℕ) = 2 ^ (15 : ℤ) := (zpow_natCast _ _).symm
  have hat : |valueOf x| = 2 ^ (15 : ℤ) ↔ (valOf x).exponent = 15 ∧ sigOf x = 2 ^ Nat.log2 (sigOf x) := by
    rw [abs_valueOf]
    exact eq_two_zpow_iff hpos
  have hrange := signed_range_iff (neg := signOf x) (abs_nonneg (valueOf x)) (two_zpow_pos 15)
  rw [← valueOf_eq_abs, binade_lt_iff h1 h2, hat] at hrange
  rw [hcast, hrange, hone, Bool.and_eq_true, Bool.or_eq_true, Bool.and_eq_true, Bool.and_eq_true, decide_eq_true_iff,
    decide_eq_true_iff, decide_eq_true_iff, decide_eq_true_iff]
  refine and_congr_right fun _ => or_congr_right ?_
  exact ⟨fun h => ⟨⟨h.1.1, h.2⟩, h.1.2⟩, fun h => ⟨⟨h.1.1, h.2⟩, h.1.2⟩⟩

/-- Chopping gives the integer that rounding toward zero gives. -/
theorem scaleAmount_eq {x : TReal} {n : ℤ} (h : RoundsTo 3 (valueOf x) n) : scaleAmount x = n := by
  have hto := (intQuot_splits x).roundsTo 3 (signOf x) (abs_nonneg _)
  rw [← valueOf_eq_abs] at hto
  exact (hto.2.2.2 rfl).trans (h.2.2.2 rfl).symm

section Scale
variable {cw : Control} {k : Nat} {a x : TReal}

theorem scaleOf_nan (h : classOf a = .nan ∨ classOf x = .nan) : scaleOf cw k a x =
    ⟨{ ExcSet.onlyI with d := ((classOf a).denormalOperand || (classOf x).denormalOperand) && !cw.masks.d }, .none,
      nanOf a x⟩ := by
  unfold scaleOf
  exact if_pos h

theorem scaleOf_outOfRange (hn : ¬ (classOf a = .nan ∨ classOf x = .nan)) (hi : classOf x ≠ .infinity)
    (h : ¬ scaleInRange x = true) : scaleOf cw k a x = .exact (Config.freeReal k) := by
  unfold scaleOf
  dsimp only
  rw [if_neg hn, if_neg hi, if_pos (by simpa using h)]

theorem scaleOf_undefined (hn : ¬ (classOf a = .nan ∨ classOf x = .nan)) (hi : classOf x ≠ .infinity)
    (h : scaleInRange x = true) (hx : (classOf x).extended = true) : (scaleOf cw k a x).before =
      if (classOf x).denormalOperand && !cw.masks.d then .onlyD else .none := by
  unfold scaleOf
  dsimp only
  rw [if_neg hn, if_neg hi, if_neg (by simpa using h), if_pos hx]

theorem scaleOf_inRange (hn : ¬ (classOf a = .nan ∨ classOf x = .nan)) (hi : classOf x ≠ .infinity)
    (h : scaleInRange x = true) (hx : (classOf x).extended = false) : scaleOf cw k a x = scaleBy cw k a x := by
  unfold scaleOf
  dsimp only
  rw [if_neg hn, if_neg hi, if_neg (by simpa using h), if_neg (by rw [hx]; simp)]

theorem scaleBy_denormal (h : (classOf a).denormalOperand = true) (hxn : classOf x ≠ .nan) (hm : cw.masks.d = false) : (scaleBy cw k a x).before = .onlyD := by
  have hb (r : OpenResult) (list : ExcSet) : openBefore list cw.masks a x r = .onlyD := by
    rw [(openBefore_denormal r (by rw [h]; rfl)).2 hm, decide_eq_false (not_or.mpr ⟨not_nan_of_denormal h, hxn⟩)]
    rfl
  unfold scaleBy
  cases hc : classOf a with
  | zero | normal | infinity | nan | pseudoSpecial => rw [hc] at h; exact nomatch h
  | denormal | pseudoDenormal | unnormal | pseudoZero => exact hb _ _

theorem scaleBy_zero (h : classOf a = .zero) : scaleBy cw k a x = .exact a := by
  unfold scaleBy; rw [h]

theorem scaleBy_normal (h : classOf a = .normal) : scaleBy cw k a x =
    ⟨.none, { (deliver cw .p64 k (signOf a) ⟨sigOf a, false, unitOf a + scaleAmount x⟩).ex with
      p := (deliver cw .p64 k (signOf a) ⟨sigOf a, false, unitOf a + scaleAmount x⟩).ex.p &&
        Config.freeScalePrecision k },
      (deliver cw .p64 k (signOf a) ⟨sigOf a, false, unitOf a + scaleAmount x⟩).value⟩ := by
  unfold scaleBy; rw [h]; rfl

end Scale

/-- The range of a 64-bit significand decides between the three ways of its delivery. -/
theorem deliver_sig64 {cw : Control} {k : Nat} {neg : Bool} {n : Nat} {e : ℤ} (h1 : 2 ^ 63 ≤ n) (h2 : n < 2 ^ 64) :
    (-16382 ≤ 63 + e → 63 + e ≤ 16383 → (deliver cw .p64 k neg ⟨n, false, e⟩).ex = .none ∧
      classOf (deliver cw .p64 k neg ⟨n, false, e⟩).value = .normal ∧
      signOf (deliver cw .p64 k neg ⟨n, false, e⟩).value = neg ∧
      |valueOf (deliver cw .p64 k neg ⟨n, false, e⟩).value| = n * 2 ^ e) ∧
    (16383 < 63 + e → (deliver cw .p64 k neg ⟨n, false, e⟩).ex.o = true ∧
      (deliver cw .p64 k neg ⟨n, false, e⟩).ex.u = false) ∧
    (63 + e < -16382 → (deliver cw .p64 k neg ⟨n, false, e⟩).ex.u = true ∧
      (deliver cw .p64 k neg ⟨n, false, e⟩).ex.o = false) := by
  have hl : Nat.log2 n = 63 := log2_eq_of_bounds h1 h2
  have hpos : 0 < n := lt_of_lt_of_le (by decide) h1
  have hexp : (⟨n, false, e⟩ : Mag).exponent = 63 + e := by unfold Mag.exponent; rw [hl]; rfl
  have hr := round_significant (e := e) (significant_of_lt h2) cw.rc neg
  have hnorm := log2_normSig hpos
  rw [hl] at hr
  refine ⟨fun hlo hhi => ?_, fun hhi => ?_, fun hlo => ?_⟩
  · obtain ⟨hex, hs, hv⟩ := deliver_significant (cw := cw) (k := k) (neg := neg) hpos (significant_of_lt h2) (e := e)
      (by omega) (by rw [hl]; omega)
    have hd := deliver_inRange (prec := .p64) (cw := cw) (k := k) (neg := neg) (x := ⟨n, false, e⟩) (by decide)
      (by rw [hexp]; exact hlo) (by
        rw [show Prec.p64.bits = 64 from rfl, hr, hnorm]
        change ((63 : ℕ) : ℤ) + (((63 : ℕ) : ℤ) + e - 63) ≤ _
        omega)
    rw [hl, decide_eq_false (by omega)] at hex
    rw [hex] at hv
    refine ⟨hex, ?_, hs, hv.trans (if_neg (by simp))⟩
    obtain ⟨hc, -⟩ := packNorm_spec (neg := neg) (n := normSig n) (t := ((63 : ℕ) : ℤ) + e - 63)
      (by have := normSig_bounds hpos; omega) (significant_of_lt (normSig_bounds hpos).2) (by omega) (by omega)
    rw [hd, show Prec.p64.bits = 64 from rfl, hr]
    exact hc
  · rw [deliver_overflow (by decide) (by rw [hexp]; omega) (by
      rw [show Prec.p64.bits = 64 from rfl, hr, hnorm]
      change _ < ((63 : ℕ) : ℤ) + (((63 : ℕ) : ℤ) + e - 63)
      omega)]
    unfold overflow
    split <;> exact ⟨rfl, rfl⟩
  · rw [deliver_tiny (by decide) (by rw [hexp]; exact hlo)]
    unfold underflow
    split
    · split <;> exact ⟨rfl, rfl⟩
    · exact ⟨rfl, rfl⟩

/-- Settles O32. -/
theorem rootScaleAndRound : Obligations.RootScaleAndRound := by
  refine ⟨fun s i c h h0 h1 => ?_, fun cw k a => ?_, fun cw k a x => ?_, fun cw k a x hm => ⟨fun h => ?_, ?_⟩,
    fun cw a => ⟨fun h => ?_, fun h => ?_, fun h => rndintOf_finite h⟩⟩
  · obtain ⟨hx, hc⟩ := exec_onTop h h0 h1
    exact Delivers.of_writeResult (ea := none) hc hx
  · obtain ⟨ho, hu⟩ := sqrtOf_flags cw k a
    have hcore (c : Class) (hc : classOf a = c) (hext : c.extended = false) : ¬ (classOf a).extended = true := by
      rw [hc, hext]; simp
    refine ⟨ho, hu, fun h => ?_, fun h => ?_, fun h => ?_, fun h hs => ?_⟩
    all_goals
      unfold sqrtOf
      rw [if_neg (hcore _ h rfl), h]
    · rfl
    · rfl
    · cases hic : cw.ic <;> cases hs : signOf a <;> simp [Computed.exact, Computed.invalid]
    · dsimp only
      rw [hs]
      rfl
  · refine ⟨fun h => scaleOf_nan h, fun hna hx hout => ?_, fun n hn hlo hhi hx => ⟨fun h => ?_, fun h => ?_⟩⟩
    · have hin : ¬ scaleInRange x = true := by
        rw [scaleInRange_iff, valueOf_eq_zero]
        rintro (h | ⟨h1, h2, h3⟩)
        · exact (sigOf_pos_of_normal hx).ne' h
        · rcases hout with h | h | h <;> linarith
      have hnan : ¬ (classOf a = .nan ∨ classOf x = .nan) := not_or.mpr ⟨hna, by rw [hx]; nofun⟩
      rw [scaleOf_outOfRange hnan (by rw [hx]; nofun) hin]
      exact ⟨rfl, rfl⟩
    all_goals
      have hxf : FiniteReal x := hx.imp_right And.left
      have hin : scaleInRange x = true := (scaleInRange_iff x).mpr
        (hx.imp valueOf_of_zero fun hh => ⟨hh.2, hlo, hhi⟩)
      have hnan : ¬ (classOf a = .nan ∨ classOf x = .nan) := not_or.mpr ⟨by rw [h]; nofun, hxf.class.2.1⟩
      have hby : scaleOf cw k a x = scaleBy cw k a x := scaleOf_inRange hnan hxf.class.2.2 hin hxf.class.1
    · rw [hby, scaleBy_zero h]
      rfl
    · have hsc := scaleBy_normal (cw := cw) (k := k) (x := x) h
      rw [scaleAmount_eq hn] at hsc
      obtain ⟨hin', hover, hunder⟩ := deliver_sig64 (cw := cw) (k := k) (neg := signOf a) (e := unitOf a + n)
        (classOf_normal_iff.mp h).2.2 (sigOf_lt a)
      have hexp : 63 + (unitOf a + n) = (valOf a).exponent + n := by
        rw [exponent_valOf h, unitOf_normal h]; ring
      rw [hexp] at hin' hover hunder
      rw [hby, hsc]
      refine ⟨rfl, fun h1 h2 => ?_, hover, hunder, ⟨sigOf a, false, unitOf a + n⟩, rfl, ?_, rfl, ?_, fun _ _ => rfl⟩
      · obtain ⟨hex, hc, hs, hv⟩ := hin' h1 h2
        refine ⟨?_, hc, ?_⟩
        · dsimp only
          rw [hex]
          rfl
        · rw [valueOf_eq_abs, hs, hv, zpow_add₀ two_ne_zero, valueOf_eq a]
          ring
      · rw [abs_valueOf, zpow_add₀ two_ne_zero, mul_assoc]
      · intro hp
        dsimp only at hp ⊢
        rw [hp, Bool.false_and]
  · refine ⟨sqrtOf_denormal k h hm, rndintOf_denormal h hm, fun hx => ?_⟩
    have hxf : FiniteReal x := hx.imp_right And.left
    have hin : scaleInRange x = true := (scaleInRange_iff x).mpr
      (hx.imp valueOf_of_zero fun hh => ⟨hh.2.1, hh.2.2.1, hh.2.2.2⟩)
    rw [scaleOf_inRange (not_or.mpr ⟨not_nan_of_denormal h, hxf.class.2.1⟩) hxf.class.2.2 hin hxf.class.1]
    exact scaleBy_denormal h hxf.class.2.1 hm
  · intro hx hna hv
    have hden : (classOf x).denormalOperand = true := by rcases hx with h | h <;> rw [h] <;> rfl
    have hi : classOf x ≠ .infinity := by rcases hx with h | h <;> rw [h] <;> nofun
    rw [scaleOf_undefined (not_or.mpr ⟨hna, not_nan_of_denormal hden⟩) hi ((scaleInRange_iff x).mpr hv)
      (Class.extended_of_denormalOperand hden), hden, hm]
    rfl
  · unfold rndintOf; rw [h]; rfl
  · unfold rndintOf; rw [h]; rfl

end Sys2Proof.Machine
end

section
/-! SUPPORT. Integers and packed decimals in memory: what a load gives, and what a store gives back
(spec/40_numerics.md R210, R211, R213, R215). -/

namespace Sys2Proof.Machine

/-! ### Decimal digits (R174) -/

/-- A digit below the top of a sum is that of the lower part. -/
theorem digit_of_lower (b lo hi : Nat) {k n : Nat} (h : k < n) (hb : 0 < b) :
    (lo + hi * b ^ n) / b ^ k % b = lo / b ^ k % b := by
  obtain ⟨j, rfl⟩ : ∃ j, n = k + (j + 1) := ⟨n - k - 1, by omega⟩
  rw [show hi * b ^ (k + (j + 1)) = hi * b ^ j * b * b ^ k by ring, Nat.add_mul_div_right _ _ (pow_pos hb k),
    Nat.add_mul_mod_self_right]

theorem bcdValue_lt {w n : Nat} (h : bcdValid w n = true) : bcdValue w n < 10 ^ n := by
  induction n with
  | zero => exact Nat.one_pos
  | succ n ih =>
    obtain ⟨hd, hv⟩ := Bool.and_eq_true_iff.mp h
    have hlt := ih hv
    have hle : bcdDigit w n ≤ 9 := of_decide_eq_true hd
    unfold bcdValue
    calc bcdValue w n + bcdDigit w n * 10 ^ n < 10 ^ n + 9 * 10 ^ n :=
          Nat.add_lt_add_of_lt_of_le hlt (Nat.mul_le_mul_right _ hle)
      _ = 10 ^ (n + 1) := by ring

/-- The decimal digits of the number are the digits of the operand. -/
theorem bcdValue_digit {w n : Nat} (h : bcdValid w n = true) {k : Nat} (hk : k < n) :
    bcdValue w n / 10 ^ k % 10 = bcdDigit w k := by
  induction n with
  | zero => omega
  | succ n ih =>
    obtain ⟨hd, hv⟩ := Bool.and_eq_true_iff.mp h
    have hle : bcdDigit w n ≤ 9 := of_decide_eq_true hd
    unfold bcdValue
    rcases Nat.lt_or_eq_of_le (Nat.le_of_lt_succ hk) with hlt | rfl
    · rw [digit_of_lower 10 _ _ hlt (by decide), ih hv hlt]
    · rw [Nat.add_mul_div_right _ _ (by positivity), Nat.div_eq_of_lt (bcdValue_lt hv), zero_add]
      omega

theorem bcdDigits_lt (v n : Nat) : bcdDigits v n < 16 ^ n := by
  induction n with
  | zero => exact Nat.one_pos
  | succ n ih =>
    have hle : v / 10 ^ n % 10 ≤ 15 := by omega
    unfold bcdDigits
    calc bcdDigits v n + v / 10 ^ n % 10 * 16 ^ n < 16 ^ n + 15 * 16 ^ n :=
          Nat.add_lt_add_of_lt_of_le ih (Nat.mul_le_mul_right _ hle)
      _ = 16 ^ (n + 1) := by ring

/-- The digits that are stored are the decimal digits of the number. -/
theorem bcdDigits_digit (v : Nat) {k n : Nat} (hk : k < n) : bcdDigits v n / 16 ^ k % 16 = v / 10 ^ k % 10 := by
  induction n with
  | zero => omega
  | succ n ih =>
    unfold bcdDigits
    rcases Nat.lt_or_eq_of_le (Nat.le_of_lt_succ hk) with hlt | rfl
    · rw [digit_of_lower 16 _ _ hlt (by decide), ih hlt]
    · rw [Nat.add_mul_div_right _ _ (by positivity), Nat.div_eq_of_lt (bcdDigits_lt v k), zero_add]
      omega

/-- Digits that agree make the same packed number. -/
theorem bcdDigits_eq_mod {v w n : Nat} (h : ∀ k, k < n → v / 10 ^ k % 10 = bcdDigit w k) :
    bcdDigits v n = w % 16 ^ n := by
  induction n with
  | zero => rw [pow_zero, Nat.mod_one]; rfl
  | succ n ih =>
    unfold bcdDigits
    rw [ih fun k hk => h k (by omega), h n (by omega), Nat.mod_pow_succ, mul_comm (16 ^ n)]
    rfl

theorem bcdValid_of_digits {v w n : Nat} (h : ∀ k, k < n → bcdDigit w k = v / 10 ^ k % 10) :
    bcdValid w n = true ∧ bcdValue w n = v % 10 ^ n := by
  induction n with
  | zero => exact ⟨rfl, by rw [pow_zero, Nat.mod_one]; rfl⟩
  | succ n ih =>
    obtain ⟨hv, he⟩ := ih fun k hk => h k (by omega)
    have hd := h n (by omega)
    constructor
    · unfold bcdValid
      rw [hv, Bool.and_true, hd]
      exact decide_eq_true (by omega)
    · unfold bcdValue
      rw [he, hd, Nat.mod_pow_succ, mul_comm (10 ^ n)]

/-- The image of a packed decimal: the sign in bit 79, eighteen digits, and nothing between them (R174). -/
theorem bcdImage_spec (neg : Bool) {v : Nat} (h : v < 10 ^ 18) :
    let w := (if neg then 2 ^ 79 else 0) + bcdDigits v 18
    w.testBit 79 = neg ∧ w / 2 ^ 72 % 2 ^ 7 = 0 ∧ w < 2 ^ 80 ∧ bcdValid w 18 = true ∧ bcdValue w 18 = v := by
  intro w
  have hlt : bcdDigits v 18 < 2 ^ 72 := bcdDigits_lt v 18
  have hdig : ∀ k, k < 18 → bcdDigit w k = v / 10 ^ k % 10 := fun k hk => by
    rw [← bcdDigits_digit v hk]
    have hw : w = bcdDigits v 18 + (if neg then 2 ^ 7 else 0) * 16 ^ 18 := by
      change (if neg then 2 ^ 79 else 0) + bcdDigits v 18 = _
      rw [add_comm]
      cases neg <;> rfl
    unfold bcdDigit
    rw [hw, digit_of_lower 16 _ _ hk (by decide)]
  obtain ⟨hvalid, hvalue⟩ := bcdValid_of_digits hdig
  refine ⟨?_, ?_, ?_, hvalid, hvalue.trans (Nat.mod_eq_of_lt h)⟩
  · rw [Nat.testBit_eq_decide_div_mod_eq]
    unfold w
    cases neg
    · exact decide_eq_false (by simp only [Bool.false_eq_true, if_false]; omega)
    · exact decide_eq_true (by simp only [if_true]; omega)
  · unfold w
    cases neg
    · simp only [Bool.false_eq_true, if_false]; omega
    · simp only [if_true]; omega
  · unfold w
    cases neg
    · simp only [Bool.false_eq_true, if_false]; omega
    · simp only [if_true]; omega

/-! ### Packed decimals of registers -/

/-- One half added and chopped. -/
theorem addHalf_eq (r : TReal) : (addHalf r : ℤ) = ⌊|valueOf r| + 1 / 2⌋ := by
  have h := intQuot_splits r
  unfold addHalf
  dsimp only
  generalize (Mag.ofVal (valOf r)).quot 0 = q at h ⊢
  have hl := h.lower
  have hu := h.upper
  symm
  split
  · next hc =>
    rw [Int.floor_eq_iff]
    have hge : (q.floor : ℚ) + 1 / 2 ≤ |valueOf r| := by
      rcases Bool.or_eq_true_iff.mp hc with ht | ha
      · exact (h.tie.mp ht).ge
      · exact (h.above.mp ha).le
    push_cast
    exact ⟨by linarith, by linarith⟩
  · next hc =>
    rw [Bool.not_eq_true, Bool.or_eq_false_iff] at hc
    have hne : |valueOf r| ≠ q.floor + 1 / 2 := fun e => by
      have := h.tie.mpr e
      rw [hc.1] at this
      exact nomatch this
    have hle : |valueOf r| ≤ q.floor + 1 / 2 := not_lt.mp fun e => by
      have := h.above.mpr e
      rw [hc.2] at this
      exact nomatch this
    have hlt := lt_of_le_of_ne hle hne
    rw [Int.floor_eq_iff]
    push_cast
    exact ⟨by linarith, by linarith⟩

theorem toBcd_finite {cw : Control} {k : Nat} {r : TReal} (h : FiniteReal r) :
    toBcd cw k r = bcdStored k (signOf r) (addHalf r) := by
  unfold toBcd
  rcases h with h | h <;> rw [h]

theorem toBcd_special {cw : Control} {k : Nat} {r : TReal} (h : classOf r = .nan ∨ classOf r = .infinity) :
    toBcd cw k r = ⟨.onlyI, .none, bcdIndefinite k⟩ := by
  unfold toBcd
  rcases h with h | h <;> rw [h]

theorem openStored_denormal {op : OpenStore} {list : ExcSet} {cw : Control} {r : TReal}
    (h : (classOf r).denormalOperand = true) (hm : cw.masks.d = false) :
    (openStored op list cw r).before = .onlyD := openBefore_onlyD _ h hm

theorem toBcd_denormal {cw : Control} {k : Nat} {r : TReal} (h : (classOf r).denormalOperand = true)
    (hm : cw.masks.d = false) : (toBcd cw k r).before = .onlyD := by
  unfold toBcd
  cases hc : classOf r with
  | zero | normal | infinity | nan | pseudoSpecial => rw [hc] at h; exact nomatch h
  | denormal | pseudoDenormal | unnormal | pseudoZero => exact openStored_denormal h hm

theorem bcdIndefinite_high (k : Nat) : bcdIndefinite k / 2 ^ 64 = 0xFFFF := bcdIndefinite_top k

theorem bcdStored_fits {k : Nat} {neg : Bool} {v : Nat} (h : v < 10 ^ 18) :
    bcdStored k neg v = ⟨.none, .none, (if neg then 2 ^ 79 else 0) + bcdDigits v 18⟩ := if_neg (by omega)

theorem bcdStored_exceeds {k : Nat} {neg : Bool} {v : Nat} (h : 10 ^ 18 ≤ v) :
    bcdStored k neg v = ⟨.onlyI, .none, bcdIndefinite k⟩ := if_pos (by omega)

/-! ### Integers in memory -/

theorem IntFmt.bits_pos (f : IntFmt) : 0 < f.bits := by cases f <;> decide

theorem toInt_finite {cw : Control} {f : IntFmt} {r : TReal} (h : FiniteReal r) :
    toInt cw f r = intStored f (roundInt cw r) ((Mag.ofVal (valOf r)).quot 0).exact := by
  unfold toInt
  rcases h with h | h <;> rw [h]

theorem toInt_special {cw : Control} {f : IntFmt} {r : TReal} (h : classOf r = .nan ∨ classOf r = .infinity) :
    toInt cw f r = ⟨.onlyI, .none, 2 ^ (f.bits - 1)⟩ := by
  unfold toInt
  rcases h with h | h <;> rw [h] <;> rfl

theorem toInt_denormal {cw : Control} {f : IntFmt} {r : TReal} (h : (classOf r).denormalOperand = true)
    (hm : cw.masks.d = false) : (toInt cw f r).before = .onlyD := by
  unfold toInt
  cases hc : classOf r with
  | zero | normal | infinity | nan | pseudoSpecial => rw [hc] at h; exact nomatch h
  | denormal | pseudoDenormal | unnormal | pseudoZero => exact openStored_denormal h hm

theorem roundInt_roundsTo (cw : Control) (r : TReal) : RoundsTo cw.rc (valueOf r) (roundInt cw r) := by
  have h := (intQuot_splits r).roundsTo cw.rc (signOf r) (abs_nonneg _)
  rwa [← valueOf_eq_abs] at h

theorem roundInt_cast (cw : Control) (r : TReal) : (roundInt cw r : ℚ) =
    signFactor (signOf r) * (((Mag.ofVal (valOf r)).quot 0).round cw.rc (signOf r) : ℕ) := by
  unfold roundInt
  dsimp only
  cases signOf r <;> simp [signFactor]

/-- Nothing is left exactly where the rounded integer is the value. -/
theorem roundInt_exact (cw : Control) (r : TReal) :
    (!((Mag.ofVal (valOf r)).quot 0).exact) = decide ((roundInt cw r : ℚ) ≠ valueOf r) := by
  rw [Bool.eq_iff_iff, decide_eq_true_iff, Bool.not_eq_true', ← Bool.not_eq_true,
    (intQuot_splits r).exact_iff cw.rc (signOf r), roundInt_cast]
  refine not_congr ?_
  conv_rhs => rw [valueOf_eq_abs r]
  exact (mul_right_inj' (signFactor_ne_zero _)).symm

theorem intStored_eq (f : IntFmt) (n : ℤ) (exact : Bool) : intStored f n exact =
    if -2 ^ (f.bits - 1) ≤ n ∧ n < 2 ^ (f.bits - 1)
      then ⟨.none, { ExcSet.none with p := !exact }, (n % 2 ^ f.bits).toNat⟩
      else ⟨.onlyI, .none, 2 ^ (f.bits - 1)⟩ := by
  unfold intStored
  by_cases h : -2 ^ (f.bits - 1) ≤ n ∧ n < 2 ^ (f.bits - 1)
  · rw [if_pos h, if_neg (by omega)]
    rfl
  · rw [if_neg h, if_pos (by omega)]
    rfl

/-- The signed integer of the bits: its range, its sign, and its bits again. -/
theorem toInt_bits (f : IntFmt) {w : Nat} (h : w < 2 ^ f.bits) :
    -2 ^ (f.bits - 1) ≤ f.toInt w ∧ f.toInt w < 2 ^ (f.bits - 1) ∧
    decide (f.toInt w < 0) = w.testBit (f.bits - 1) ∧ (f.toInt w % 2 ^ f.bits).toNat = w ∧
    (f.toInt w).natAbs < 2 ^ 64 := by
  have hp : (2 : ℕ) ^ f.bits = 2 * 2 ^ (f.bits - 1) := by
    rw [← pow_succ']
    congr 1
    have := f.bits_pos
    omega
  have hle : (2 : ℕ) ^ f.bits ≤ 2 ^ 64 := Nat.pow_le_pow_right (by decide) (by cases f <;> decide)
  have hpz : (2 : ℤ) ^ f.bits = 2 * 2 ^ (f.bits - 1) := by exact_mod_cast hp
  have hcast : (2 : ℤ) ^ (f.bits - 1) = ((2 ^ (f.bits - 1) : ℕ) : ℤ) := by push_cast; rfl
  unfold IntFmt.toInt
  rw [Nat.mod_eq_of_lt h]
  dsimp only
  rw [Nat.testBit_eq_decide_div_mod_eq, hpz, hcast]
  generalize 2 ^ (f.bits - 1) = m at *
  have hm : 0 < m := by omega
  by_cases hlt : w < m
  · rw [if_pos hlt, Nat.div_eq_of_lt hlt]
    refine ⟨by omega, by omega, decide_eq_decide.mpr (by omega), ?_, by omega⟩
    rw [Int.emod_eq_of_lt (by omega) (by omega), Int.toNat_natCast]
  · rw [if_neg hlt, show w / m = 1 from Nat.div_eq_of_lt_le (by omega) (by omega)]
    refine ⟨by omega, by omega, decide_eq_decide.mpr (by omega), ?_, by omega⟩
    rw [show ((w : ℤ) - 2 * m) % (2 * m) = (w : ℤ) by
      rw [Int.sub_emod_right, Int.emod_eq_of_lt (by omega) (by omega)], Int.toNat_natCast]

/-- Storing an integer that was loaded gives its bits again. -/
theorem roundInt_of_int {cw : Control} {r : TReal} {v : ℤ} (h : valueOf r = v) : roundInt cw r = v := by
  have hsp := intQuot_splits r
  have hv : |valueOf r| = ((v.natAbs : ℕ) : ℚ) := by rw [h, Nat.cast_natAbs, Int.cast_abs]
  rw [hv] at hsp
  have hq : (roundInt cw r : ℚ) = v := by
    rw [roundInt_cast, (hsp.of_nat cw.rc (signOf r)).2.2, ← hv, ← valueOf_eq_abs, h]
  exact_mod_cast hq

/-- The same of a packed decimal. -/
theorem addHalf_of_nat {r : TReal} {v : ℕ} (h : |valueOf r| = v) : addHalf r = v := by
  have he := addHalf_eq r
  rw [h] at he
  have hf : ⌊(v : ℚ) + 1 / 2⌋ = (v : ℤ) := by
    rw [Int.floor_eq_iff]
    push_cast
    exact ⟨by linarith, by linarith⟩
  rw [hf] at he
  exact_mod_cast he

theorem significant_of_decimal {v : Nat} (h : v < 10 ^ 18) : Significant v ∧ Nat.log2 v ≤ 16383 := by
  refine ⟨significant_of_lt (by omega), ?_⟩
  rcases Nat.eq_zero_or_pos v with h0 | h0
  · rw [h0]; decide
  · have := (Nat.log2_lt h0.ne').mpr (lt_trans h (by decide : 10 ^ 18 < 2 ^ 64))
    omega

/-- Settles O57. -/
theorem integerAndDecimalLoadThenStore : Obligations.IntegerAndDecimalLoadThenStore := by
  refine ⟨fun cw f w hw => ?_, fun cw k w hw hvalid => ?_⟩
  · intro v
    obtain ⟨h1, h2, hneg, hbits, h64⟩ := toInt_bits f hw
    obtain ⟨hv, hs, hn, hz⟩ := cvtInt_spec h64
    refine ⟨fun h0 => ?_, fun h0 => ⟨hn h0, hs.trans hneg⟩, hv, ?_⟩
    · rw [h0]; decide
    · have hfin : FiniteReal (cvtInt v) := by
        by_cases h0 : v = 0
        · exact .inl (hz h0)
        · exact .inr (hn h0)
      have hr : roundInt cw (cvtInt v) = v := roundInt_of_int hv
      have hx := roundInt_exact cw (cvtInt v)
      rw [hr, decide_eq_false (not_not.mpr hv.symm), Bool.not_eq_false'] at hx
      rw [toInt_finite hfin, hr, hx, intStored_eq, if_pos ⟨h1, h2⟩, hbits]
      rfl
  · have hlt := bcdValue_lt hvalid
    obtain ⟨hsig, hlog⟩ := significant_of_decimal hlt
    obtain ⟨hs, hv, hz, hn⟩ := ofInteger_spec (neg := bcdSign w) hsig hlog
    have habs : |valueOf (cvtBcd w)| = (bcdValue w 18 : ℕ) := by
      change |valueOf (ofInteger (bcdSign w) (bcdValue w 18))| = _
      rw [hv, abs_mul, abs_signFactor, one_mul, abs_of_nonneg (Nat.cast_nonneg _)]
    have hfin : FiniteReal (cvtBcd w) := by
      by_cases h0 : bcdValue w 18 = 0
      · exact .inl (hz h0)
      · exact .inr (hn h0)
    refine ⟨habs, hs, ?_⟩
    rw [toBcd_finite hfin, addHalf_of_nat habs, bcdStored_fits hlt]
    have hdig : bcdDigits (bcdValue w 18) 18 = w % 2 ^ 72 :=
      bcdDigits_eq_mod (w := w) fun k hk => bcdValue_digit hvalid hk
    have hsign : (if signOf (cvtBcd w) then 2 ^ 79 else 0) = w / 2 ^ 79 * 2 ^ 79 := by
      rw [show signOf (cvtBcd w) = bcdSign w from hs, bcdSign, Nat.testBit_eq_decide_div_mod_eq]
      by_cases hb : w / 2 ^ 79 % 2 = 1
      · rw [decide_eq_true hb, if_pos rfl]; omega
      · rw [decide_eq_false hb, if_neg (by simp)]; omega
    rw [hdig, hsign]

end Sys2Proof.Machine
end

section
/-! SUPPORT. The short and long reals of memory: the fields of a packed one, and what a load and a store make of it
(spec/40_numerics.md R175, R212, R214). -/

namespace Sys2Proof.Machine

/-! ### The fields of a memory real (R175) -/

theorem RealFmt.bias_eq (f : RealFmt) : 2 * f.bias + 2 = 2 ^ f.expBits := by cases f <;> rfl
theorem RealFmt.bias_lt (f : RealFmt) : f.bias < 16383 := by cases f <;> decide
theorem RealFmt.fracBits_lt (f : RealFmt) : f.fracBits < 63 := by cases f <;> decide
theorem RealFmt.two_pow_fracBits (f : RealFmt) : 2 ^ f.fracBits * 2 ^ (63 - f.fracBits) = 2 ^ 63 := by
  cases f <;> rfl

/-- The sign bit of a memory real, as the conversion reads it. -/
def RealFmt.signBit (f : RealFmt) (w : Nat) : Bool := decide (w / 2 ^ (f.expBits + f.fracBits) % 2 = 1)

/-- The fields of a packed memory real are those that were packed. -/
theorem RealFmt.fields_pack (f : RealFmt) (neg : Bool) {e frac : Nat} (he : e < 2 ^ f.expBits)
    (hf : frac < 2 ^ f.fracBits) :
    f.pack neg e frac % 2 ^ f.fracBits = frac ∧ f.pack neg e frac / 2 ^ f.fracBits % 2 ^ f.expBits = e ∧
    f.signBit (f.pack neg e frac) = neg := by
  unfold RealFmt.signBit RealFmt.pack
  rw [pow_add]
  generalize 2 ^ f.fracBits = F at *
  generalize 2 ^ f.expBits = E at *
  have hF : 0 < F := by omega
  have hE : 0 < E := by omega
  have hs : (if neg then E * F else 0) = (if neg then E else 0) * F := by cases neg <;> simp
  have hsum : (if neg then E * F else 0) + e * F + frac = frac + F * ((if neg then E else 0) + e) := by rw [hs]; ring
  have hhigh : (frac + F * ((if neg then E else 0) + e)) / F = (if neg then E else 0) + e := by
    rw [Nat.add_mul_div_left _ _ hF, Nat.div_eq_of_lt hf, zero_add]
  rw [hsum, hhigh, mul_comm E F, ← Nat.div_div_eq_div_mul, hhigh]
  refine ⟨by rw [Nat.add_mul_mod_self_left, Nat.mod_eq_of_lt hf], ?_, ?_⟩
  · cases neg
    · simp [Nat.mod_eq_of_lt he]
    · simp [Nat.mod_eq_of_lt he]
  · cases neg
    · simp [Nat.div_eq_of_lt he]
    · simp [Nat.add_div_left e hE, Nat.div_eq_of_lt he]

/-- A memory real is its three fields. -/
theorem RealFmt.pack_fields (f : RealFmt) {w : Nat} (h : w < 2 ^ f.bits) :
    f.pack (f.signBit w) (w / 2 ^ f.fracBits % 2 ^ f.expBits) (w % 2 ^ f.fracBits) = w := by
  unfold RealFmt.signBit RealFmt.pack
  rw [show 2 ^ f.bits = 2 * (2 ^ f.expBits * 2 ^ f.fracBits) by unfold RealFmt.bits; rw [pow_add, pow_add]; ring] at h
  rw [pow_add]
  generalize 2 ^ f.fracBits = F at *
  generalize 2 ^ f.expBits = E at *
  have hdiv : w / (E * F) = w / F / E := by rw [mul_comm, Nat.div_div_eq_div_mul]
  have hlow := Nat.div_add_mod w F
  have hmid := Nat.div_add_mod (w / F) E
  have htop : w / F / E < 2 := by
    rw [← hdiv]
    exact Nat.div_lt_of_lt_mul (by rw [mul_comm]; exact h)
  rw [hdiv]
  generalize w / F / E = b at *
  have hb : (if decide (b % 2 = 1) = true then E * F else 0) = F * (E * b) := by
    obtain rfl | rfl : b = 0 ∨ b = 1 := by omega
    · simp
    · simp [mul_comm]
  rw [hb]
  calc F * (E * b) + w / F % E * F + w % F = F * (E * b + w / F % E) + w % F := by ring
    _ = w := by rw [hmid, hlow]

theorem RealFmt.bits_pred (f : RealFmt) : f.bits - 1 = f.expBits + f.fracBits := by cases f <;> rfl

/-! ### Loads (R212) -/

section Load
variable {f : RealFmt} {w : Nat}

theorem cvtReal_zero (he : w / 2 ^ f.fracBits % 2 ^ f.expBits = 0) (hf : w % 2 ^ f.fracBits = 0) :
    cvtReal f w = ⟨false, zeroOf (f.signBit w)⟩ := by
  unfold cvtReal
  dsimp only
  rw [if_pos he, if_pos hf]
  rfl

theorem cvtReal_top (he : w / 2 ^ f.fracBits % 2 ^ f.expBits = 2 ^ f.expBits - 1) :
    cvtReal f w = ⟨false, Machine.pack (f.signBit w) 0x7FFF (2 ^ 63 + (w % 2 ^ f.fracBits) <<< (63 - f.fracBits))⟩ := by
  have := f.bias_eq
  unfold cvtReal
  dsimp only
  rw [if_neg (by omega), if_pos he]
  rfl

theorem cvtReal_number (h0 : 0 < w / 2 ^ f.fracBits % 2 ^ f.expBits)
    (h1 : w / 2 ^ f.fracBits % 2 ^ f.expBits < 2 ^ f.expBits - 1) :
    cvtReal f w = ⟨false, Machine.pack (f.signBit w) (w / 2 ^ f.fracBits % 2 ^ f.expBits + 16383 - f.bias)
      ((2 ^ f.fracBits + w % 2 ^ f.fracBits) <<< (63 - f.fracBits))⟩ := by
  unfold cvtReal
  dsimp only
  rw [if_neg (by omega), if_neg (by omega)]
  rfl

end Load

/-- A number of a memory format in a register: normal, with its sign, its exponent and its value. -/
theorem RealFmt.widened_spec (f : RealFmt) {neg : Bool} {e frac : Nat} (h0 : 0 < e) (h1 : e < 2 ^ f.expBits - 1)
    (hf : frac < 2 ^ f.fracBits) :
    let r := Machine.pack neg (e + 16383 - f.bias) ((2 ^ f.fracBits + frac) <<< (63 - f.fracBits))
    classOf r = .normal ∧ signOf r = neg ∧ expOf r = e + 16383 - f.bias ∧
    |valueOf r| = (2 ^ f.fracBits + frac : ℕ) * 2 ^ ((e : ℤ) - f.bias - f.fracBits) := by
  intro r
  have hb := f.bias_eq
  have hb' := f.bias_lt
  have hfb := f.fracBits_lt
  have hfull := f.two_pow_fracBits
  have he15 : e + 16383 - f.bias < 2 ^ 15 := by omega
  have hm : (2 ^ f.fracBits + frac) <<< (63 - f.fracBits) = (2 ^ f.fracBits + frac) * 2 ^ (63 - f.fracBits) :=
    Nat.shiftLeft_eq _ _
  have hlow : 2 ^ 63 ≤ (2 ^ f.fracBits + frac) <<< (63 - f.fracBits) := by
    rw [hm, ← hfull]; exact Nat.mul_le_mul_right _ (by omega)
  have hup : (2 ^ f.fracBits + frac) <<< (63 - f.fracBits) < 2 ^ 64 := by
    rw [hm, show 2 ^ 64 = 2 * 2 ^ f.fracBits * 2 ^ (63 - f.fracBits) by rw [mul_assoc, hfull]; norm_num]
    exact Nat.mul_lt_mul_of_pos_right (by omega) (by positivity)
  have hexp : expOf r = e + 16383 - f.bias := expOf_pack he15 hup
  have hsig : sigOf r = _ := sigOf_pack he15 hup
  refine ⟨classOf_normal_iff.mpr ⟨by omega, by omega, hsig ▸ hlow⟩, signOf_pack he15 hup, hexp, ?_⟩
  rw [abs_valueOf, hsig, hm, Nat.cast_mul, Nat.cast_pow, Nat.cast_ofNat, mul_assoc, mul_comm (2 ^ (63 - f.fracBits)),
    zpow_mul_pow, unitOf, hexp, if_neg (by omega)]
  congr 2
  omega

/-- Loading a packed number of the format. -/
theorem cvtReal_pack (f : RealFmt) {neg : Bool} {e frac : Nat} (h0 : 0 < e) (h1 : e < 2 ^ f.expBits - 1)
    (hf : frac < 2 ^ f.fracBits) :
    let c := cvtReal f (f.pack neg e frac)
    c.d = false ∧ classOf c.value = .normal ∧ signOf c.value = neg ∧
    |valueOf c.value| = (2 ^ f.fracBits + frac : ℕ) * 2 ^ ((e : ℤ) - f.bias - f.fracBits) := by
  intro c
  obtain ⟨hfr, hex, hs⟩ := f.fields_pack neg (e := e) (by omega) hf
  have hc : c = _ := cvtReal_number (by rw [hex]; exact h0) (by rw [hex]; exact h1)
  rw [hfr, hex, hs] at hc
  obtain ⟨hcl, hsign, -, hv⟩ := f.widened_spec (neg := neg) h0 h1 hf
  rw [hc]
  exact ⟨rfl, hcl, hsign, hv⟩

/-! ### Stores (R214) -/

theorem toReal_zero {cw : Control} {f : RealFmt} {r : TReal} (h : classOf r = .zero) :
    toReal cw f r = ⟨.none, .none, f.pack (signOf r) 0 0⟩ := by
  unfold toReal
  rw [h]

theorem toReal_normal {cw : Control} {f : RealFmt} {r : TReal} (h : classOf r = .normal) :
    toReal cw f r = roundReal cw f (signOf r) (.ofVal (valOf r)) := by
  unfold toReal
  rw [h]

/-- A pattern with the least or the greatest exponent that is no zero is chopped. -/
theorem toReal_chopped {cw : Control} {f : RealFmt} {r : TReal} (h : expOf r = 0 ∧ sigOf r ≠ 0 ∨ expOf r = 0x7FFF) :
    toReal cw f r = ⟨.none, .none, chopReal f r⟩ := by
  unfold toReal
  cases hc : classOf r with
  | infinity | nan | denormal | pseudoDenormal | pseudoSpecial => rfl
  | zero =>
    have := classOf_zero_iff.mp hc
    omega
  | normal =>
    have := classOf_normal_iff.mp hc
    omega
  | unnormal | pseudoZero =>
    unfold classOf at hc
    dsimp only at hc
    split_ifs at hc
    omega

theorem chopReal_eq {f : RealFmt} {r : TReal} (h : expOf r = 0 ∨ expOf r = 0x7FFF) :
    chopReal f r = f.pack (signOf r) (if expOf r = 0 then 0 else 2 ^ f.expBits - 1)
      (sigOf r % 2 ^ 63 / 2 ^ (63 - f.fracBits)) := by
  have he : expOf r % 2 ^ f.expBits = if expOf r = 0 then 0 else 2 ^ f.expBits - 1 := by
    rcases h with h | h <;> rw [h] <;> cases f <;> rfl
  unfold chopReal
  rw [he]

/-- The value of a normal number, and the number handed to the rounding. -/
theorem normal_known {r : TReal} (h : classOf r = .normal) (p : Nat) :
    (Mag.ofVal (valOf r)).Known p |valueOf r| ∧ 0 < (Mag.ofVal (valOf r)).n ∧
    (Mag.ofVal (valOf r)).exponent = (expOf r : ℤ) - 16383 := by
  refine ⟨?_, sigOf_pos_of_normal h, exponent_valOf h⟩
  rw [abs_valueOf]
  exact Mag.Known.of_exact rfl

section Store
variable {cw : Control} {f : RealFmt} {neg : Bool} {x : Mag}

theorem roundReal_inRange (h : 1 - (f.bias : ℤ) ≤ x.exponent)
    (ht : (Nat.log2 (x.round (f.fracBits + 1) cw.rc neg).1 : ℤ) + (x.round (f.fracBits + 1) cw.rc neg).2.1 ≤ f.bias) :
    let y := x.round (f.fracBits + 1) cw.rc neg
    roundReal cw f neg x = ⟨.none, { ExcSet.none with p := y.2.2 },
      f.pack neg ((Nat.log2 y.1 : ℤ) + y.2.1 + f.bias).toNat (y.1 >>> (Nat.log2 y.1 - f.fracBits) - 2 ^ f.fracBits)⟩ := by
  unfold roundReal
  rw [if_neg (not_lt.mpr h)]
  exact if_neg (not_lt.mpr ht)

theorem roundReal_overflow (h : 1 - (f.bias : ℤ) ≤ x.exponent)
    (ht : (f.bias : ℤ) < Nat.log2 (x.round (f.fracBits + 1) cw.rc neg).1 + (x.round (f.fracBits + 1) cw.rc neg).2.1) :
    roundReal cw f neg x = ⟨.none, { ExcSet.none with o := true, p := true }, overflowReal f cw.rc neg⟩ := by
  unfold roundReal
  rw [if_neg (not_lt.mpr h)]
  exact if_pos ht

theorem roundReal_tiny (h : x.exponent < 1 - (f.bias : ℤ)) : roundReal cw f neg x = denormalizeReal cw f neg x :=
  if_pos h

/-- Nothing is found before a number is stored. -/
theorem roundReal_before (cw : Control) (f : RealFmt) (neg : Bool) (x : Mag) : (roundReal cw f neg x).before = .none := by
  unfold roundReal
  split
  · rfl
  · dsimp only
    split <;> rfl

/-- A number stored in range: loaded again it is the rounded number (R214). -/
theorem roundReal_stores {v : ℚ} (hk : x.Known (f.fracBits + 1) v) (hn : 0 < x.n)
    (h : 1 - (f.bias : ℤ) ≤ x.exponent)
    (ht : (Nat.log2 (x.round (f.fracBits + 1) cw.rc neg).1 : ℤ) + (x.round (f.fracBits + 1) cw.rc neg).2.1 ≤ f.bias) :
    let y := x.round (f.fracBits + 1) cw.rc neg
    let c := cvtReal f (roundReal cw f neg x).bits
    (roundReal cw f neg x).after = { ExcSet.none with p := y.2.2 } ∧ c.d = false ∧ signOf c.value = neg ∧
    |valueOf c.value| = y.1 * 2 ^ y.2.1 := by
  intro y c
  have hb := f.bias_eq
  obtain ⟨h1, h2⟩ := hk.rounded hn (Nat.succ_pos _) cw.rc neg
  obtain ⟨hl1, hl2⟩ := hk.log2_rounded hn (Nat.succ_pos _) cw.rc neg
  have ht1 : y.2.1 = x.exponent - (f.fracBits + 1 : ℕ) + 1 := rfl
  change 2 ^ f.fracBits ≤ y.1 at h1
  change y.1 ≤ 2 ^ (f.fracBits + 1) at h2
  change f.fracBits ≤ Nat.log2 y.1 at hl1
  change (Nat.log2 y.1 : ℤ) + y.2.1 ≤ f.bias at ht
  have hround := roundReal_inRange h ht
  -- the fraction: the rounded significand below its leading bit
  have hfrac : 2 ^ f.fracBits ≤ y.1 >>> (Nat.log2 y.1 - f.fracBits) ∧
      y.1 >>> (Nat.log2 y.1 - f.fracBits) < 2 * 2 ^ f.fracBits ∧
      (y.1 >>> (Nat.log2 y.1 - f.fracBits)) * 2 ^ (Nat.log2 y.1 - f.fracBits) = y.1 := by
    obtain ⟨hlow, hup⟩ := log2_bounds (lt_of_lt_of_le (by positivity) h1)
    rcases Nat.lt_or_eq_of_le hl1 with hlt | heq
    · obtain hl : Nat.log2 y.1 = f.fracBits + 1 := le_antisymm hl2 hlt
      have hy : y.1 = 2 ^ (f.fracBits + 1) := le_antisymm h2 (hl ▸ hlow)
      rw [hl, Nat.add_sub_cancel_left, Nat.shiftRight_eq_div_pow, hy, pow_succ, pow_one,
        Nat.mul_div_cancel _ two_pos]
      exact ⟨le_rfl, by have := Nat.two_pow_pos f.fracBits; omega, rfl⟩
    · rw [← heq, pow_succ] at hup
      rw [← heq, Nat.sub_self, Nat.shiftRight_zero]
      exact ⟨h1, by omega, mul_one _⟩
  obtain ⟨hf1, hf2, hf3⟩ := hfrac
  obtain ⟨e, he⟩ : ∃ e : ℕ, (Nat.log2 y.1 : ℤ) + y.2.1 + f.bias = e := ⟨_, (Int.toNat_of_nonneg (by omega)).symm⟩
  obtain ⟨hd, -, hs, hv⟩ := cvtReal_pack f (neg := neg) (e := e)
    (frac := y.1 >>> (Nat.log2 y.1 - f.fracBits) - 2 ^ f.fracBits) (by omega) (by omega) (by omega)
  have hc : c = cvtReal f (f.pack neg e (y.1 >>> (Nat.log2 y.1 - f.fracBits) - 2 ^ f.fracBits)) := by
    change cvtReal f (roundReal cw f neg x).bits = _
    rw [hround]
    dsimp only
    rw [he, Int.toNat_natCast]
  rw [hround, hc]
  refine ⟨rfl, hd, hs, hv.trans ?_⟩
  rw [Nat.add_sub_cancel' hf1]
  conv_rhs => rw [← hf3]
  rw [Nat.cast_mul, Nat.cast_pow, Nat.cast_ofNat, mul_assoc, mul_comm (2 ^ (Nat.log2 y.1 - f.fracBits)), zpow_mul_pow]
  congr 2
  omega

/-- A number below the range: a multiple of the least unit of the format, with U (R203, R214). -/
theorem denormalizeReal_spec {v : ℚ} (hk : x.Known (f.fracBits + 1) v) (hn : 0 < x.n) (hs : x.sticky = false) :
    ∃ n : ℤ, RoundsTo cw.rc (signFactor neg * v / 2 ^ (1 - (f.bias : ℤ) - f.fracBits)) n ∧
      (denormalizeReal cw f neg x).after = { ExcSet.none with
        u := true, p := decide ((n : ℚ) * 2 ^ (1 - (f.bias : ℤ) - f.fracBits) ≠ signFactor neg * v) } ∧
      (denormalizeReal cw f neg x).bits = (if neg then 2 ^ (f.bits - 1) else 0) + n.natAbs := by
  have hpos := two_zpow_pos (1 - (f.bias : ℤ) - f.fracBits)
  have hsp := Mag.quot_splits (t := 1 - (f.bias : ℤ) - f.fracBits) hk.brackets fun e => by rw [hs] at e; exact nomatch e
  obtain ⟨hlow, -⟩ := hk.brackets.binade hn
  have hv0 : 0 ≤ v := (two_zpow_pos _).le.trans hlow
  unfold denormalizeReal
  dsimp only
  generalize x.quot (1 - (f.bias : ℤ) - f.fracBits) = q at hsp ⊢
  refine ⟨if neg then -(q.round cw.rc neg : ℤ) else q.round cw.rc neg, ?_, ?_, ?_⟩
  · rw [mul_div_assoc]
    exact hsp.roundsTo cw.rc neg (div_nonneg hv0 hpos.le)
  · have hcast : ((if neg then -(q.round cw.rc neg : ℤ) else q.round cw.rc neg : ℤ) : ℚ) =
        signFactor neg * (q.round cw.rc neg : ℕ) := by cases neg <;> simp [signFactor]
    have hx : (!q.exact) = decide (((q.round cw.rc neg : ℕ) : ℚ) * 2 ^ (1 - (f.bias : ℤ) - f.fracBits) ≠ v) := by
      rw [Bool.eq_iff_iff, decide_eq_true_iff, Bool.not_eq_true', ← Bool.not_eq_true, hsp.exact_iff cw.rc neg,
        eq_div_iff hpos.ne']
    rw [hx, hcast, mul_assoc, decide_eq_decide.mpr (not_congr (mul_right_inj' (signFactor_ne_zero neg)).symm)]
  · have habs : (if neg then -(q.round cw.rc neg : ℤ) else q.round cw.rc neg : ℤ).natAbs = q.round cw.rc neg := by
      cases neg <;> simp
    rw [habs, f.bits_pred]
    unfold RealFmt.pack
    split
    · next he => rw [he]; ring
    · ring

end Store

/-- A number of the format is stored as its own bits. -/
theorem roundReal_widened {cw : Control} {f : RealFmt} {neg : Bool} {x : Mag} {e frac : Nat} (h0 : 0 < e)
    (h1 : e < 2 ^ f.expBits - 1) (hf : frac < 2 ^ f.fracBits) (hx : x.exponent = (e : ℤ) - f.bias)
    (hk : x.Known (f.fracBits + 1) ((2 ^ f.fracBits + frac : ℕ) * 2 ^ ((e : ℤ) - f.bias - f.fracBits))) :
    roundReal cw f neg x = ⟨.none, .none, f.pack neg e frac⟩ := by
  have hb := f.bias_eq
  have ht : x.exponent - (f.fracBits + 1 : ℕ) + 1 = (e : ℤ) - f.bias - f.fracBits := by omega
  have hsp := hk.splits
  rw [ht, mul_div_cancel_right₀ _ (two_zpow_pos _).ne'] at hsp
  obtain ⟨-, hex, hr⟩ := hsp.of_nat cw.rc neg
  have hy : x.round (f.fracBits + 1) cw.rc neg = (2 ^ f.fracBits + frac, (e : ℤ) - f.bias - f.fracBits, false) := by
    rw [Mag.round_eq, ht, hr, hex]
    rfl
  have hlog : Nat.log2 (2 ^ f.fracBits + frac) = f.fracBits := log2_eq_of_bounds (by omega) (by rw [pow_succ]; omega)
  have htop : (Nat.log2 (2 ^ f.fracBits + frac) : ℤ) + ((e : ℤ) - f.bias - f.fracBits) + f.bias = e := by
    rw [hlog]; ring
  have hround := roundReal_inRange (cw := cw) (neg := neg) (f := f) (x := x) (by omega) (by rw [hy]; dsimp only; omega)
  rw [hy] at hround
  dsimp only at hround
  rw [htop, hlog, Nat.sub_self, Nat.shiftRight_zero, Nat.add_sub_cancel_left, Int.toNat_natCast] at hround
  exact hround

/-- Settles O56. -/
theorem realLoadThenStore : Obligations.RealLoadThenStore := by
  intro cw f w hw e frac hden c
  have hb := f.bias_eq
  have hfull := f.two_pow_fracBits
  have hfrac : frac < 2 ^ f.fracBits := Nat.mod_lt _ (by positivity)
  have he : e < 2 ^ f.expBits := Nat.mod_lt _ (by positivity)
  have hpack : f.pack (f.signBit w) e frac = w := f.pack_fields hw
  rcases Nat.eq_zero_or_pos e with h0 | h0
  · have hfrac0 : frac = 0 := not_not.mp fun hne => hden ⟨h0, hne⟩
    have hc : c = ⟨false, zeroOf (f.signBit w)⟩ := cvtReal_zero h0 hfrac0
    rw [h0, hfrac0] at hpack
    rw [hc]
    refine ⟨rfl, ?_, fun hpos => absurd h0 hpos.ne'⟩
    rw [toReal_zero (classOf_zeroOf _), signOf_zeroOf, hpack]
  by_cases htop : e = 2 ^ f.expBits - 1
  · have hc : c = ⟨false, _⟩ := cvtReal_top htop
    have hm : frac <<< (63 - f.fracBits) = frac * 2 ^ (63 - f.fracBits) := Nat.shiftLeft_eq _ _
    have hlt : frac <<< (63 - f.fracBits) < 2 ^ 63 := by
      rw [hm, ← hfull]; exact Nat.mul_lt_mul_of_pos_right hfrac (by positivity)
    have hexp := expOf_pack (neg := f.signBit w) (e := 0x7FFF) (m := 2 ^ 63 + frac <<< (63 - f.fracBits)) (by decide)
      (by omega)
    have hsig := sigOf_pack (neg := f.signBit w) (e := 0x7FFF) (m := 2 ^ 63 + frac <<< (63 - f.fracBits)) (by decide)
      (by omega)
    have hsign := signOf_pack (neg := f.signBit w) (e := 0x7FFF) (m := 2 ^ 63 + frac <<< (63 - f.fracBits)) (by decide)
      (by omega)
    rw [hc]
    refine ⟨rfl, ?_, fun _ h => absurd htop h.ne⟩
    dsimp only
    rw [toReal_chopped (.inr hexp), chopReal_eq (.inr hexp), hexp, hsig, hsign, if_neg (by decide),
      Nat.add_mod_left, Nat.mod_eq_of_lt hlt, hm, Nat.mul_div_cancel _ (by positivity), ← htop, hpack]
  · have h1 : e < 2 ^ f.expBits - 1 := by omega
    have hc : c = ⟨false, _⟩ := cvtReal_number h0 h1
    obtain ⟨hcl, hsign, hexp, hval⟩ := f.widened_spec (neg := f.signBit w) h0 h1 hfrac
    obtain ⟨hk, -, hx⟩ := normal_known hcl (f.fracBits + 1)
    rw [hval] at hk
    have hbias := f.bias_lt
    rw [hc]
    refine ⟨rfl, ?_, fun _ _ => ⟨hcl, hval⟩⟩
    have hround := roundReal_widened (cw := cw) (neg := f.signBit w) h0 h1 hfrac (hx.trans (by rw [hexp]; omega)) hk
    rw [hpack] at hround
    exact (toReal_normal hcl).trans (by rw [hsign]; exact hround)

/-- Settles O58. -/
theorem storedNumbersAreRounded : Obligations.StoredNumbersAreRounded := by
  intro cw k r
  refine ⟨fun f => ⟨toInt_special, toInt_denormal, fun hfin => ⟨roundInt cw r, roundInt_roundsTo cw r, ?_⟩⟩, ?_,
    fun f => ?_⟩
  · rw [toInt_finite hfin, intStored_eq, roundInt_exact]
  · intro n x
    have hn : (addHalf r : ℤ) = n := addHalf_eq r
    refine ⟨toBcd_denormal, fun hfin hlt => ?_, fun h => ?_⟩
    · have hlt' : addHalf r < 10 ^ 18 := by omega
      have hx : x = ⟨.none, .none, (if signOf r then 2 ^ 79 else 0) + bcdDigits (addHalf r) 18⟩ :=
        (toBcd_finite hfin).trans (bcdStored_fits hlt')
      obtain ⟨hs, hz, hb, hvalid, hvalue⟩ := bcdImage_spec (signOf r) hlt'
      rw [hx]
      exact ⟨rfl, rfl, hs, hz, hb, hvalid, by rw [hvalue, hn]⟩
    · have hx : x = ⟨.onlyI, .none, bcdIndefinite k⟩ := by
        rcases h with h | h | ⟨h, hge⟩
        · exact toBcd_special (.inl h)
        · exact toBcd_special (.inr h)
        · exact (toBcd_finite (.inr h)).trans (bcdStored_exceeds (by omega))
      rw [hx]
      exact ⟨rfl, rfl, bcdIndefinite_high k⟩
  · intro x m y top
    refine ⟨fun hz => ?_, fun hsp => ?_, fun hnorm => ?_⟩
    · change toReal cw f r = _
      rw [toReal_zero hz, f.bits_pred]
      unfold RealFmt.pack
      rw [zero_mul, add_zero, add_zero]
    · have hx : x = ⟨.none, .none, chopReal f r⟩ := toReal_chopped hsp
      rw [hx]
      exact ⟨rfl, rfl, chopReal_eq (hsp.imp_left And.left)⟩
    · have hx : x = roundReal cw f (signOf r) m := toReal_normal hnorm
      obtain ⟨hk, hpos, -⟩ := normal_known hnorm (f.fracBits + 1)
      rw [hx]
      refine ⟨roundReal_before .., fun hlo hhi => roundReal_stores hk hpos hlo hhi, fun hlo hhi => ?_, fun htiny => ?_⟩
      · rw [roundReal_overflow hlo hhi]
        exact ⟨rfl, fun hrc => if_pos (by rw [← or_assoc]; exact .inl hrc)⟩
      · rw [roundReal_tiny htiny]
        have h := denormalizeReal_spec (cw := cw) (neg := signOf r) hk hpos rfl
        rwa [← valueOf_eq_abs] at h

end Sys2Proof.Machine
end

section
/-! SUPPORT. The transcendental functions: what is delivered in the stated ranges, and what is left outside them
(spec/44_transcendental.md R380 to R387). -/

namespace Sys2Proof.Machine

/-! ### Writing what a function left -/

/-- The functions of ST(1) and ST. -/
def functionsOfTwo : List (Instr × (Control → TReal → TReal → FunctionResult)) :=
  [(.fpatan, patanOf), (.fyl2x, yl2xOf), (.fyl2xp1, yl2xp1Of)]

theorem exec_functionOfTwo {s : State} (h0 : s.isEmpty 0 = false) (h1 : s.isEmpty 1 = false) :
    ∀ r ∈ functionsOfTwo,
      exec r.1 s = .next ((s.begin none).writeFunction (r.2 s.cw (s.num 1) (s.num 0)) 1 true) := by
  have hfull : ∀ f, (s.begin none).function2 f = (s.begin none).writeFunction (f s.cw (s.num 1) (s.num 0)) 1 true :=
    fun f => by
      unfold State.function2
      refine if_neg ?_
      change ¬ (s.isEmpty 0 || s.isEmpty 1) = true
      rw [h0, h1]
      simp
  simp only [functionsOfTwo, List.forall_mem_cons, List.not_mem_nil, false_implies, implies_true, and_true]
  exact ⟨congrArg _ (hfull patanOf), congrArg _ (hfull yl2xOf), congrArg _ (hfull yl2xp1Of)⟩

theorem exec_f2xm1 {s : State} (h0 : s.isEmpty 0 = false) :
    exec .f2xm1 s = .next ((s.begin none).writeFunction (f2xm1Of s.cw (s.num 0)) 0 false) := by
  change Host.Outcome.next ((s.begin none).function1 f2xm1Of) = _
  have he : (s.begin none).isEmpty 0 = false := h0
  unfold State.function1
  rw [he, if_neg (by simp)]
  rfl

/-- A result is delivered, with what its function raises. -/
theorem completes_of_result {s : State} {i : Instr} {r : FunctionResult} {d : BitVec 3} {pop : Bool} {after : ExcSet}
    {v : TReal} {P : ExcSet → TReal → Prop} (hx : exec i s = .next ((s.begin none).writeFunction r d pop))
    (hr : r = .result after v) (hc : r.Classed) (hP : P after v) :
    Completes (exec i s) fun t => ∃ (after : ExcSet) (v : TReal),
      Ran s t none after ∧ DeliveredTo s t d v pop ∧ MemoryKept s t ∧ P after v := by
  subst hr
  obtain ⟨hran, hdel, hmem⟩ := State.writeResult_delivers (s := s) (c := ⟨.none, after, v⟩) none d pop
    ⟨⟨rfl, rfl, rfl⟩, hc⟩ (Proceeds.none s)
  exact ⟨_, hx, after, v, ExcSet.none_union after ▸ hran, hdel, hmem, hP⟩

/-- Outside its range a function leaves a register that is not empty, and raises nothing. -/
theorem completes_of_undefined {s : State} {i : Instr} {d : BitVec 3} {pop : Bool}
    (hx : exec i s = .next ((s.begin none).writeFunction (.undefined false) d pop)) (hd : pop = true → d ≠ 0) :
    Completes (exec i s) fun t => Ran s t none .none ∧ MemoryKept s t ∧
      t.sw.top = (if pop then s.sw.top + 1 else s.sw.top) ∧ t.tag (s.sw.top + d) ≠ .empty ∧
      (pop = true → t.tag s.sw.top = .empty ∧ t.reg s.sw.top = s.reg s.sw.top) ∧
      ∀ p, p ≠ s.sw.top + d → p ≠ s.sw.top → t.reg p = s.reg p ∧ t.tag p = s.tag p := by
  refine ⟨_, hx, ?_⟩
  have heq : (s.begin none).writeFunction (.undefined false) d pop =
      (((s.begin none).setReg (s.sw.top + d) (Config.freeReal s.draws) (Tag.nonEmpty (Config.freeTag s.draws))).popIf
        pop).conclude .none s.freeCode :=
    State.attempt_proceeds (s.begin none) .none .none _ ⟨rfl, rfl, rfl⟩ (Proceeds.none s)
  have hne : pop = true → s.sw.top ≠ s.sw.top + d := fun hp h => hd hp (by simpa using h.symm)
  have hreg : ∀ p, ((s.begin none).writeFunction (.undefined false) d pop).reg p =
      if p = s.sw.top + d then Config.freeReal s.draws else s.reg p := fun p => by
    rw [heq, State.reg_conclude, State.reg_popIf, State.reg_setReg]; rfl
  have htag : ∀ p, ((s.begin none).writeFunction (.undefined false) d pop).tag p =
      if pop = true ∧ p = s.sw.top then .empty
      else if p = s.sw.top + d then Tag.nonEmpty (Config.freeTag s.draws) else s.tag p := fun p => by
    rw [heq, State.tag_conclude, State.tag_popIf, State.tag_setReg]; rfl
  refine ⟨?_, ?_, ?_, ?_, fun hp => ⟨?_, ?_⟩, fun p h1 h2 => ⟨?_, ?_⟩⟩
  · rw [heq]
    exact Ran.of_conclude (ea := none) ((Effect.setReg ..).trans (Effect.popIf ..)) _ _
  · rw [heq]
    exact .of_mem (State.mem_popIf ..)
  · rw [heq]
    exact State.top_popIf ..
  · rw [htag, if_neg fun h => hne h.1 h.2.symm, if_pos rfl]
    exact Tag.nonEmpty_ne _
  · rw [htag, if_pos ⟨hp, rfl⟩]
  · rw [hreg, if_neg (hne hp)]
  · rw [hreg, if_neg h1]
  · rw [htag, if_neg fun h => h2 h.2, if_neg h1]

/-! ### The tangent (R383) -/

theorem top_ne_below (t : BitVec 3) : t ≠ t - 1 := by revert t; decide

/-- Where neither stack fault is met, FPTAN replaces ST and pushes. -/
theorem exec_fptan_inRange {s : State} (h0 : s.isEmpty 0 = false) (hf : s.pushFull = false)
    (h : ptanInRange (s.num 0) = true) :
    exec .fptan s = .next ((((s.begin none).writeSt 0 (normalOrZero (Config.fPtanY (s.num 0) s.cw.rc))).push
      (normalOrZero (Config.fPtanX (s.num 0) s.cw.rc))).conclude .onlyP s.freeCode) := by
  change Host.Outcome.next ((s.begin none).tangent) = _
  have he : ((s.begin none).isEmpty 0 || (s.begin none).pushFull) = false := by
    change (s.isEmpty 0 || s.pushFull) = false
    rw [h0, hf]; rfl
  have hr : ptanInRange ((s.begin none).num 0) = true := h
  unfold State.tangent
  rw [he, if_neg (by simp), if_pos hr]
  exact congrArg _ (State.attempt_proceeds (s.begin none) .none .onlyP _ ⟨rfl, rfl, rfl⟩ (Proceeds.none s))

theorem exec_fptan_outOfRange {s : State} (h0 : s.isEmpty 0 = false) (hf : s.pushFull = false)
    (h : ptanInRange (s.num 0) = false) :
    exec .fptan s = .next ((((s.begin none).setReg (s.sw.top + 0) (Config.freeReal s.draws)
      (Tag.nonEmpty (Config.freeTag s.draws))).pushTagged (Config.freeReal2 s.draws)
      (Tag.nonEmpty (Config.freeTag2 s.draws))).conclude .none s.freeCode) := by
  change Host.Outcome.next ((s.begin none).tangent) = _
  have he : ((s.begin none).isEmpty 0 || (s.begin none).pushFull) = false := by
    change (s.isEmpty 0 || s.pushFull) = false
    rw [h0, hf]; rfl
  have hr : ptanInRange ((s.begin none).num 0) = false := h
  unfold State.tangent
  rw [he, if_neg (by simp), hr, if_neg (by simp)]
  exact congrArg _ (State.attempt_proceeds (s.begin none) .none .none _ ⟨rfl, rfl, rfl⟩ (Proceeds.none s))

/-- The two values as the new stack shows them. -/
theorem WroteAndPushed.stack {s t : State} {v w : TReal} (h : WroteAndPushed s t v w) :
    t.st 0 = w ∧ t.st 1 = v ∧ t.stTag 0 = tagOf w ∧ t.stTag 1 = tagOf v ∧
    ∀ p, p ≠ s.sw.top → p ≠ s.sw.top - 1 → t.reg p = s.reg p ∧ t.tag p = s.tag p := by
  obtain ⟨htop, hreg, htag⟩ := h
  have h1 : t.sw.top + 1 = s.sw.top := by rw [htop, BitVec.sub_add_cancel]
  have h0 : t.sw.top + 0 = s.sw.top - 1 := by rw [add_zero, htop]
  have hne := top_ne_below s.sw.top
  refine ⟨?_, ?_, ?_, ?_, fun p hp hq => ⟨?_, ?_⟩⟩
  · rw [State.st_def, h0, hreg, if_pos rfl]
  · rw [State.st_def, h1, hreg, if_neg hne, if_pos rfl]
  · rw [State.stTag_def, h0, htag, if_pos rfl]
  · rw [State.stTag_def, h1, htag, if_neg hne, if_pos rfl]
  · rw [hreg, if_neg hq, if_neg hp]
  · rw [htag, if_neg hq, if_neg hp]

/-! ### Positive normal numbers -/

theorem positiveNormal_iff {r : TReal} : positiveNormal r = true ↔ classOf r = .normal ∧ signOf r = false := by
  unfold positiveNormal
  rw [Bool.and_eq_true, decide_eq_true_iff, Bool.not_eq_true']

/-- The value of a positive normal number by its fields. -/
theorem valueOf_positiveNormal {r : TReal} (h : positiveNormal r = true) :
    valueOf r = sigOf r * 2 ^ ((expOf r : ℤ) - 16446) ∧ 2 ^ 63 ≤ sigOf r ∧ sigOf r < 2 ^ 64 ∧ 0 < expOf r ∧
    expOf r < 0x7FFF ∧ r.toNat = expOf r * 2 ^ 64 + sigOf r := by
  obtain ⟨hc, hs⟩ := positiveNormal_iff.mp h
  obtain ⟨h0, h1, hm⟩ := classOf_normal_iff.mp hc
  refine ⟨?_, hm, sigOf_lt r, h0, h1, ?_⟩
  · rw [valueOf_eq, hs, unitOf_normal hc]
    exact one_mul _
  · rw [toNat_fields, hs, if_neg (by simp), zero_add]

/-- Normalized significands are ordered by the exponents first. -/
theorem sig_scaled_le_iff {a b : Nat} {d : ℤ} (ha : 2 ^ 63 ≤ a) (ha' : a < 2 ^ 64) (hb : 2 ^ 63 ≤ b)
    (hb' : b < 2 ^ 64) : (a : ℚ) * 2 ^ d ≤ b ↔ d < 0 ∨ d = 0 ∧ a ≤ b := by
  have haq : (a : ℚ) < 2 ^ 64 := by exact_mod_cast ha'
  have haq' : (2 : ℚ) ^ 63 ≤ a := by exact_mod_cast ha
  have hbq : (2 : ℚ) ^ 63 ≤ b := by exact_mod_cast hb
  have hbq' : (b : ℚ) < 2 ^ 64 := by exact_mod_cast hb'
  rcases lt_trichotomy d 0 with h | h | h
  · refine iff_of_true ?_ (.inl h)
    have hp : (2 : ℚ) ^ d ≤ 2 ^ (-1 : ℤ) := zpow_le_zpow_right₀ one_le_two (by omega)
    calc (a : ℚ) * 2 ^ d ≤ 2 ^ 64 * 2 ^ (-1 : ℤ) := mul_le_mul haq.le hp (two_zpow_pos d).le (by positivity)
      _ = 2 ^ 63 := by norm_num
      _ ≤ b := hbq
  · rw [h, zpow_zero, mul_one, Nat.cast_le]
    simp
  · refine iff_of_false (not_le.mpr ?_) (by omega)
    have hp : (2 : ℚ) ^ (1 : ℤ) ≤ 2 ^ d := zpow_le_zpow_right₀ one_le_two (by omega)
    calc (b : ℚ) < 2 ^ 64 := hbq'
      _ = 2 ^ 63 * 2 ^ (1 : ℤ) := by norm_num
      _ ≤ a * 2 ^ d := mul_le_mul haq' hp (two_zpow_pos 1).le (by positivity)

/-- The operand of F2XM1 is at most one half by its bits. -/
theorem toNat_le_half {x : TReal} (hx : positiveNormal x = true) (h : valueOf x ≤ 1 / 2) :
    x.toNat ≤ 0x3FFE8000000000000000 := by
  obtain ⟨hv, h1, h2, -, -, hn⟩ := valueOf_positiveNormal hx
  have hle : (sigOf x : ℚ) * 2 ^ ((expOf x : ℤ) - 16382) ≤ ((2 ^ 63 : ℕ) : ℚ) := by
    have hsplit : (expOf x : ℤ) - 16382 = (expOf x : ℤ) - 16446 + 64 := by ring
    rw [hsplit, zpow_add₀ two_ne_zero, ← mul_assoc, ← hv]
    calc valueOf x * 2 ^ (64 : ℤ) ≤ 1 / 2 * 2 ^ (64 : ℤ) := mul_le_mul_of_nonneg_right h (two_zpow_pos 64).le
      _ = ((2 ^ 63 : ℕ) : ℚ) := by norm_num
  have hcases := (sig_scaled_le_iff h1 h2 le_rfl (by decide)).mp hle
  omega

/-- A tiny arctangent by the exact values (R384; log 33). -/
theorem patanTiny_iff {y x : TReal} (hy : positiveNormal y = true) (hx : positiveNormal x = true) :
    patanTiny y x = true ↔ valueOf y ≤ valueOf x * 2 ^ (-16382 : ℤ) := by
  obtain ⟨hvy, hy1, hy2, -, -, -⟩ := valueOf_positiveNormal hy
  obtain ⟨hvx, hx1, hx2, -, -, -⟩ := valueOf_positiveNormal hx
  have hpos := two_zpow_pos ((expOf x : ℤ) - 16446 + -16382)
  have hscale : valueOf y ≤ valueOf x * 2 ^ (-16382 : ℤ) ↔
      (sigOf y : ℚ) * 2 ^ ((expOf y : ℤ) - expOf x + 16382) ≤ sigOf x := by
    rw [hvy, hvx, mul_assoc, ← zpow_add₀ two_ne_zero,
      show (expOf y : ℤ) - 16446 = (expOf y : ℤ) - expOf x + 16382 + ((expOf x : ℤ) - 16446 + -16382) by ring,
      zpow_add₀ two_ne_zero, ← mul_assoc]
    exact mul_le_mul_iff_left₀ hpos
  rw [hscale, sig_scaled_le_iff hy1 hy2 hx1 hx2]
  unfold patanTiny
  simp only [Bool.or_eq_true, Bool.and_eq_true, decide_eq_true_iff]
  omega

/-! ### Results -/

theorem normalOrZero_finite (r : TReal) : classOf (normalOrZero r) = .normal ∨ classOf (normalOrZero r) = .zero := by
  unfold normalOrZero
  cases hc : classOf r with
  | normal => exact .inl hc
  | zero => exact .inr hc
  | infinity | nan | denormal | pseudoDenormal | unnormal | pseudoZero | pseudoSpecial =>
    exact .inr (classOf_zeroOf _)

theorem patanBound_spec (r : TReal) :
    classOf (patanBound r) = .normal ∧ signOf (patanBound r) = false ∧ (patanBound r).toNat ≤ 0x3FFEC90FDAA22168C234 := by
  unfold patanBound
  split
  · next h =>
    obtain ⟨hp, hle⟩ := Bool.and_eq_true_iff.mp h
    obtain ⟨hc, hs⟩ := positiveNormal_iff.mp hp
    exact ⟨hc, hs, of_decide_eq_true hle⟩
  · exact ⟨by decide, by decide, le_rfl⟩

theorem tinyValue_spec (r : TReal) : signOf (tinyValue r) = false ∧ expOf (tinyValue r) = 0 := by
  have hlt : (if sigOf r ≤ 2 ^ 63 then sigOf r else sigOf r % 2 ^ 63) < 2 ^ 64 := by split <;> omega
  exact ⟨signOf_pack (by decide) hlt, expOf_pack (by decide) hlt⟩

theorem adjustedTiny_spec {e : ℤ} (r : TReal) (hlo : -40958 ≤ e) (hhi : e ≤ -8194) :
    signOf (adjustedTiny e r) = false ∧ classOf (adjustedTiny e r) = .normal ∧
    |((expOf (adjustedTiny e r) : ℤ) - 16383 - 24576) - e| ≤ 1 := by
  obtain ⟨b, hb⟩ : ∃ b : ℕ, e + 24576 + 16383 = b := ⟨_, (Int.toNat_of_nonneg (by omega)).symm⟩
  unfold adjustedTiny
  rw [hb, Int.toNat_natCast]
  dsimp only
  split
  · next h =>
    simp only [Bool.and_eq_true, decide_eq_true_iff] at h
    obtain ⟨⟨hp, h1⟩, h2⟩ := h
    obtain ⟨hc, hs⟩ := positiveNormal_iff.mp hp
    exact ⟨hs, hc, abs_le.mpr ⟨by omega, by omega⟩⟩
  · have hm : 2 ^ 63 + sigOf r % 2 ^ 63 < 2 ^ 64 := by omega
    have hexp := expOf_pack (neg := false) (e := b) (by omega) hm
    have hsig := sigOf_pack (neg := false) (e := b) (by omega) hm
    refine ⟨signOf_pack (by omega) hm, classOf_normal_iff.mpr ⟨by omega, by omega, by omega⟩, ?_⟩
    rw [hexp]
    exact abs_le.mpr ⟨by omega, by omega⟩

/-- A tiny result: U and P, positive, with the least exponent or the adjusted one. -/
theorem tinyResult_spec {cw : Control} {e : ℤ} (r : TReal) (hlo : -40958 ≤ e) (hhi : e ≤ -8194) :
    ∃ v, tinyResult cw e r = .result { ExcSet.none with u := true, p := true } v ∧ signOf v = false ∧
      if cw.masks.u then expOf v = 0
      else classOf v = .normal ∧ |((expOf v : ℤ) - 16383 - 24576) - e| ≤ 1 := by
  refine ⟨_, rfl, ?_⟩
  cases cw.masks.u
  · rw [if_neg (by simp), if_neg (by simp)]
    exact adjustedTiny_spec r hlo hhi
  · rw [if_pos rfl, if_pos rfl]
    exact tinyValue_spec r

section Functions
variable {cw : Control} {y x : TReal}

theorem f2xm1Of_zero (h : classOf x = .zero) :
    f2xm1Of cw x = .result .none (zeroOf (signOf x && signOf (Config.f2xm1 x cw.rc))) := if_pos h

theorem f2xm1Of_inRange (h : positiveNormal x = true) (hle : x.toNat ≤ 0x3FFE8000000000000000) :
    f2xm1Of cw x = if f2xm1Tiny x then tinyResult cw (-16383) (Config.f2xm1 x cw.rc)
      else .result .onlyP (normalOrZero (Config.f2xm1 x cw.rc)) := by
  have hz : classOf x ≠ .zero := by rw [(positiveNormal_iff.mp h).1]; exact nofun
  have hr : (positiveNormal x && decide (x.toNat ≤ 0x3FFE8000000000000000)) = true := by
    rw [h, decide_eq_true hle]; rfl
  exact (if_neg hz).trans (if_pos hr)

theorem f2xm1Of_outOfRange (hz : classOf x ≠ .zero)
    (h : ¬ (positiveNormal x = true ∧ x.toNat ≤ 0x3FFE8000000000000000)) : f2xm1Of cw x = .undefined false := by
  have hr : ¬ (positiveNormal x && decide (x.toNat ≤ 0x3FFE8000000000000000)) = true := fun hr => by
    obtain ⟨h1, h2⟩ := Bool.and_eq_true_iff.mp hr
    exact h ⟨h1, of_decide_eq_true h2⟩
  exact (if_neg hz).trans (if_neg hr)

theorem patanOf_inRange (h : patanInRange y x = true) :
    patanOf cw y x = if patanTiny y x then tinyResult cw (patanExponent y x) (Config.fPatan y x cw.rc)
      else .result .onlyP (patanBound (Config.fPatan y x cw.rc)) := by
  unfold patanOf
  rw [h]
  rfl

theorem patanOf_outOfRange (h : patanInRange y x = false) : patanOf cw y x = .undefined false := by
  unfold patanOf
  rw [h]
  rfl

theorem yl2xOf_outOfRange (h : yl2xInRange y x = false) : yl2xOf cw y x = .undefined false := by
  unfold yl2xOf
  rw [h]
  rfl

theorem yl2xOf_zero (h : yl2xInRange y x = true) (hz : classOf y = .zero ∨ x = oneReal) :
    yl2xOf cw y x = .result .none (zeroOf (signOf (Config.fYl2x y x cw.rc))) := by
  unfold yl2xOf
  rw [h]
  exact if_pos hz

/-- FYL2X whose product stays in range by the exponent of Y. -/
theorem yl2xOf_number (h : yl2xInRange y x = true) (hy : classOf y = .normal) (hlo : 65 ≤ expOf y)
    (hhi : expOf y ≤ 32751) (hx : x ≠ oneReal) :
    yl2xOf cw y x = .result { ExcSet.none with p := !yl2xExact y x (normalOrZero (Config.fYl2x y x cw.rc)) }
      (normalOrZero (Config.fYl2x y x cw.rc)) := by
  have hz : ¬ (classOf y = .zero ∨ x = oneReal) := fun hc => hc.elim (fun e => by rw [hy] at e; exact nomatch e) hx
  have hstay : yl2xMayLeave y = false := by
    unfold yl2xMayLeave
    simp only [Bool.or_eq_false_iff, decide_eq_false_iff_not]
    omega
  have hv : leavesRange (yl2xVerdict y x) y x = false := by unfold yl2xVerdict; rw [hstay]; rfl
  unfold yl2xOf
  rw [h, hv]
  exact if_neg hz

theorem yl2xp1Of_outOfRange (h : yl2xp1InRange y x = false) : yl2xp1Of cw y x = .undefined false := by
  unfold yl2xp1Of
  rw [h]
  rfl

theorem yl2xp1Of_zero (h : yl2xp1InRange y x = true) (hz : classOf y = .zero) :
    yl2xp1Of cw y x = .result .none (zeroOf (signOf (Config.fYl2xp1 y x cw.rc))) := by
  unfold yl2xp1Of
  rw [h]
  exact if_pos hz

/-- FYL2XP1 whose product stays in range by the exponents of Y and X. -/
theorem yl2xp1Of_number (h : yl2xp1InRange y x = true) (hy : classOf y = .normal) (he : 16384 ≤ expOf y + expOf x) :
    yl2xp1Of cw y x = .result .onlyP (normalOrZero (Config.fYl2xp1 y x cw.rc)) := by
  have hz : classOf y ≠ .zero := by rw [hy]; exact nofun
  have hv : leavesRange (yl2xp1Verdict y x) y x = false := by
    unfold yl2xp1Verdict
    rw [if_neg (by omega)]
    rfl
  unfold yl2xp1Of
  rw [h, hv]
  exact if_neg hz

end Functions

/-- FYL2X is exact where X is a power of two and the product is delivered (R386; log 33). -/
theorem yl2xExact_eq (y x r : TReal) : yl2xExact y x r =
    decide (sigOf x = 2 ^ 63 ∧ valueOf r = valueOf y * ((expOf x : ℚ) - 16383)) := by
  have hpos := two_zpow_pos (min (valOf y).e (valOf r).e)
  have hy : ((valOf y).scaled (min (valOf y).e (valOf r).e) : ℚ) * 2 ^ min (valOf y).e (valOf r).e = valueOf y :=
    Val.scaled_value (min_le_left _ _)
  have hr : ((valOf r).scaled (min (valOf y).e (valOf r).e) : ℚ) * 2 ^ min (valOf y).e (valOf r).e = valueOf r :=
    Val.scaled_value (min_le_right _ _)
  have hcast : ((expOf x : ℚ) - 16383) = (((expOf x : ℤ) - 16383 : ℤ) : ℚ) := by push_cast; ring
  unfold yl2xExact
  dsimp only
  rw [Bool.decide_and]
  congr 1
  refine decide_eq_decide.mpr ?_
  rw [← hy, ← hr, hcast, mul_right_comm, mul_left_inj' hpos.ne', ← Int.cast_mul, Int.cast_inj]
  exact eq_comm

/-! ### The obligations -/

/-- Settles O42. -/
theorem transcendentalsOnInvalidOperands : Obligations.TranscendentalsOnInvalidOperands := by
  intro s h0 x y
  refine ⟨fun i d pop h h1 => ?_, fun hf hr => ?_⟩
  · simp only [Prod.mk.injEq] at h
    have htwo := fun he => exec_functionOfTwo (s := s) h0 (h1 he)
    simp only [functionsOfTwo, List.forall_mem_cons, List.not_mem_nil, false_implies, implies_true, and_true] at htwo
    rcases h with ⟨⟨rfl, rfl, rfl⟩, h⟩ | ⟨⟨rfl, rfl, rfl⟩, h⟩ | ⟨⟨rfl, rfl, rfl⟩, h⟩ | ⟨⟨rfl, rfl, rfl⟩, hz, h⟩
    · exact completes_of_undefined (patanOf_outOfRange (cw := s.cw) h ▸ (htwo rfl).1) (fun _ => by decide)
    · exact completes_of_undefined (yl2xOf_outOfRange (cw := s.cw) h ▸ (htwo rfl).2.1) (fun _ => by decide)
    · exact completes_of_undefined (yl2xp1Of_outOfRange (cw := s.cw) h ▸ (htwo rfl).2.2) (fun _ => by decide)
    · exact completes_of_undefined (f2xm1Of_outOfRange (cw := s.cw) hz h ▸ exec_f2xm1 h0) nofun
  · refine ⟨_, exec_fptan_outOfRange h0 hf hr, Ran.of_conclude (ea := none)
      ((Effect.setReg ..).trans (Effect.pushTagged ..)) _ _, .of_mem rfl, rfl, ?_, ?_, fun p h1 h2 => ⟨?_, ?_⟩⟩
    · rw [State.stTag_def, State.tag_conclude, State.tag_pushTagged]
      exact fun h => Tag.nonEmpty_ne _ ((if_pos (add_zero _)).symm.trans h)
    · rw [State.stTag_def, State.tag_conclude, State.tag_pushTagged, State.tag_setReg]
      have h1 : s.sw.top - 1 + 1 = s.sw.top := BitVec.sub_add_cancel ..
      have hne := top_ne_below s.sw.top
      refine fun h => Tag.nonEmpty_ne _ (((if_neg ?_).trans (if_pos ?_)).symm.trans h)
      · exact h1 ▸ hne
      · exact h1.trans (add_zero _).symm
    · rw [State.reg_conclude, State.reg_pushTagged, State.reg_setReg]
      exact (if_neg h2).trans (if_neg (by rw [add_zero]; exact h1))
    · rw [State.tag_conclude, State.tag_pushTagged, State.tag_setReg]
      exact (if_neg h2).trans (if_neg (by rw [add_zero]; exact h1))

/-- Settles O41. -/
theorem transcendentalsInRange : Obligations.TranscendentalsInRange := by
  intro s h0 x y Finite Gives Tiny
  refine ⟨fun hz => ?_, fun hx hle => ?_, fun h1 => ?_, fun hf hr => ?_⟩
  · exact completes_of_result (exec_f2xm1 h0) (f2xm1Of_zero hz) (f2xm1Of_classed ..)
      ⟨rfl, classOf_zeroOf _, fun hs => by rw [signOf_zeroOf, hs, Bool.false_and]⟩
  · have hres := f2xm1Of_inRange (cw := s.cw) hx (toNat_le_half hx hle)
    by_cases ht : f2xm1Tiny x = true
    · obtain ⟨v, hv, hs, he⟩ := tinyResult_spec (cw := s.cw) (e := -16383) (Config.f2xm1 x s.cw.rc) (by decide) (by decide)
      exact completes_of_result (exec_f2xm1 h0) (hres.trans ((if_pos ht).trans hv)) (f2xm1Of_classed ..)
        ((if_pos ht).mpr ⟨rfl, hs, he⟩)
    · exact completes_of_result (exec_f2xm1 h0) (hres.trans (if_neg ht)) (f2xm1Of_classed ..)
        ((if_neg ht).mpr ⟨rfl, normalOrZero_finite _⟩)
  · have htwo := exec_functionOfTwo (s := s) h0 h1
    simp only [functionsOfTwo, List.forall_mem_cons, List.not_mem_nil, false_implies, implies_true, and_true] at htwo
    obtain ⟨hpatan, hyl2x, hyl2xp1⟩ := htwo
    refine ⟨fun hr => ?_, fun hr hz => ?_, fun hr hy hlo hhi hx => ?_, fun hr hz => ?_, fun hr hy he => ?_⟩
    · obtain ⟨hyx, -⟩ := Bool.and_eq_true_iff.mp hr
      obtain ⟨hy, hx⟩ := Bool.and_eq_true_iff.mp hyx
      have hres := patanOf_inRange (cw := s.cw) hr
      have htiny := patanTiny_iff hy hx
      by_cases ht : patanTiny y x = true
      · obtain ⟨-, -, -, hey0, -, -⟩ := valueOf_positiveNormal hy
        obtain ⟨-, -, -, -, hex1, -⟩ := valueOf_positiveNormal hx
        have hd : (expOf y : ℤ) - expOf x ≤ -16382 := by
          unfold patanTiny at ht
          simp only [Bool.or_eq_true, Bool.and_eq_true, decide_eq_true_iff] at ht
          omega
        have hexp : -40958 ≤ patanExponent y x ∧ patanExponent y x ≤ -8194 := by
          unfold patanExponent
          split <;> omega
        obtain ⟨v, hv, hs, he⟩ := tinyResult_spec (cw := s.cw) (Config.fPatan y x s.cw.rc) hexp.1 hexp.2
        exact completes_of_result hpatan (hres.trans ((if_pos ht).trans hv)) (patanOf_classed ..)
          ((if_pos (htiny.mp ht)).mpr ⟨rfl, hs, he⟩)
      · exact completes_of_result hpatan (hres.trans (if_neg ht)) (patanOf_classed ..)
          ((if_neg fun h => ht (htiny.mpr h)).mpr ⟨rfl, patanBound_spec _⟩)
    · exact completes_of_result hyl2x (yl2xOf_zero hr hz) (yl2xOf_classed ..) ⟨rfl, classOf_zeroOf _⟩
    · refine completes_of_result hyl2x (yl2xOf_number hr hy hlo hhi hx) (yl2xOf_classed ..)
        ⟨normalOrZero_finite _, ?_⟩
      rw [yl2xExact_eq]
    · exact completes_of_result hyl2xp1 (yl2xp1Of_zero hr hz) (yl2xp1Of_classed ..) ⟨rfl, classOf_zeroOf _⟩
    · exact completes_of_result hyl2xp1 (yl2xp1Of_number hr hy he) (yl2xp1Of_classed ..)
        ⟨rfl, normalOrZero_finite _⟩
  · refine ⟨_, exec_fptan_inRange h0 hf hr, ?_⟩
    obtain ⟨hst0, hst1, htag0, htag1, hrest⟩ := (WroteAndPushed.of_conclude s none
      (normalOrZero (Config.fPtanY (s.num 0) s.cw.rc)) (normalOrZero (Config.fPtanX (s.num 0) s.cw.rc)) .onlyP
      s.freeCode).stack
    refine ⟨Ran.of_conclude (ea := none) ((Effect.writeSt ..).trans (Effect.push ..)) _ _, .of_mem rfl, rfl, ?_, ?_,
      ?_, ?_, hrest⟩
    · rw [hst0]; exact normalOrZero_finite _
    · rw [hst1]; exact normalOrZero_finite _
    · rw [hst0]; exact htag0
    · rw [hst1]; exact htag1

end Sys2Proof.Machine
end
